-- ==== Sys2Proof/Word.lean ====
section
/-! DEFINITION. The word types of the display protocol engine (rule R10): a byte, a colour, and the
class of a wire byte (the state of the data/command line while it is sent, rule R13). -/

namespace Sys2Proof

/-- A byte, 8 bits (rule R10). -/
abbrev Byte := BitVec 8

/-- A colour: 16 bits the engine moves and never interprets (rules R24, R66). -/
abbrev Color := BitVec 16

/-- What the data/command line says of a byte on the wire: an opcode, or an operand or pixel byte
(rules R94, R97). -/
inductive DcClass where
  | cmd
  | data
  deriving DecidableEq, Repr, Inhabited

/-- One element of a byte trace: a byte with the class it is sent under (rule R13). -/
abbrev WireByte := DcClass × Byte

end Sys2Proof
end

