-- ==== Sys2Proof/Config.lean ====
section
/-! DEFINITION. The configuration: the parameters of rule R8, fixed by the instance and constant after
construction (rule R49), and the free values: what the spec leaves to the instance or to the
channel, as constants with no body. -/

namespace Sys2Proof

/-- `WIN_BOUND_BYTES`: operand bytes per bound of the generic window commands (rule R8, D11). -/
inductive BoundBytes where
  | one
  | two
  deriving DecidableEq, Repr, Inhabited

/-- `OOB_POLICY` (rules R8, R190, R215; D12). -/
inductive OobPolicy where
  | clip
  | reject
  deriving DecidableEq, Repr, Inhabited

/-- `FB_BYTE_ORDER` (rules R8, R63; D7). -/
inductive ByteOrder where
  | little
  | big
  deriving DecidableEq, Repr, Inhabited

/-- `SPI_BIT_ORDER` (rule R8, D1); read by no rule. -/
inductive BitOrder where
  | msbFirst
  | lsbFirst
  deriving DecidableEq, Repr, Inhabited

/-- An 8 by 8 glyph; bit `8 * row + col` is the pixel at column `col` from the left and row `row`
from the top (DESIGN CHOICE, log 9). -/
abbrev Glyph := BitVec 64

/-- `FONT`: a total function from a byte to a glyph, as data (rules R8, R196; D14). -/
abbrev Font := Vector Glyph 256

/-- The parameters of rule R8. -/
structure Config where
  width : Nat
  height : Nat
  /-- `F_SCK` in hertz; read by no rule. -/
  fSck : Nat
  /-- Lower bounds of the holds of the reset pulse, in milliseconds. -/
  tRstHi : Nat
  tRstLo : Nat
  tRstPost : Nat
  winBoundBytes : BoundBytes
  initTable : List WireByte
  font : Font
  /-- Electrical levels; read by no rule. -/
  csActiveLevel : BitVec 1
  dcCmdLevel : BitVec 1
  spiMode : Fin 4
  spiBitOrder : BitOrder
  oobPolicy : OobPolicy
  fbByteOrder : ByteOrder
  deriving DecidableEq, Repr

/-- `N`, the length of the framebuffer in bytes (rules R8, R51). -/
def Config.fbLen (c : Config) : Nat := c.width * c.height * 2

/-- FREE VALUE (log 4): whether the draw number `n` of the transmission channel succeeds, where the
environment gives none (rule R212: not decided by any state of the block). -/
opaque Config.txSucceeds : Nat → Bool

/-- FREE VALUE (log 5): the byte at an address that has not been written since the `NEW` number `k`
(rule R54, U5: drawn once at `NEW`, then stable until written). -/
opaque Config.freeByte : Nat → Nat → Byte

/-- OPEN parameter (log 8): the instance's `WIN_BOUND_BYTES`. -/
opaque Config.openBoundBytes : BoundBytes

/-- OPEN parameter (log 9): the instance's `FONT`. -/
opaque Config.openFont : Font

/-- OPEN parameters (log 10): the instance's `SPI_MODE` and `SPI_BIT_ORDER`. -/
opaque Config.openSpiMode : Fin 4

opaque Config.openSpiBitOrder : BitOrder

end Sys2Proof
end

