-- ==== Sys2Proof/Machine/Reference.lean ====
section
/-! DEFINITION. The reference configuration (rule R8) with its initialisation table (rule R141). -/

namespace Sys2Proof.Machine

/-- The INIT table, index 0 to 17 (rule R141). -/
def referenceInitTable : List WireByte :=
  [(.cmd, 0xAF),
   (.cmd, 0x00), (.data, 0x10),
   (.cmd, 0x20), (.data, 0x00),
   (.cmd, 0xA8), (.data, 0x3F),
   (.cmd, 0xD3), (.data, 0x00),
   (.cmd, 0xD5), (.data, 0x80),
   (.cmd, 0xD9), (.data, 0x22),
   (.cmd, 0xDA), (.data, 0x12),
   (.cmd, 0xDB), (.data, 0x40),
   (.cmd, 0xA1)]

/-- The values of rule R8's column "reference" (log 7); the parameters it leaves OPEN are constants
with no body (logs 8 to 10). -/
def referenceConfig : Config where
  width := 128
  height := 128
  fSck := 16000000
  tRstHi := 20
  tRstLo := 200
  tRstPost := 0
  winBoundBytes := Config.openBoundBytes
  initTable := referenceInitTable
  font := Config.openFont
  csActiveLevel := 0
  dcCmdLevel := 0
  spiMode := Config.openSpiMode
  spiBitOrder := Config.openSpiBitOrder
  oobPolicy := .clip
  fbByteOrder := .little

end Sys2Proof.Machine
end

