-- ==== Sys2Proof/Syntax.lean ====
section
/-! DEFINITION. The instructions: one constructor per row of the opcode table, the sixteen host
operations (rule R93) and the sixteen wire commands (rule R96), and the form in which a request
reaches the engine (rules R22 to R28, R91). -/

namespace Sys2Proof

/-- The instructions. Coordinates and sizes are integers (rule R190), the scale and the window bounds
natural numbers (rules R25, R28); `Instr.wellFormed` gives the range of the register each comes
from. -/
inductive Instr where
  -- bus transport
  | writeCommand (b : Byte)
  | writeData (blob : List Byte)
  | pulseReset
  -- controller protocol
  | initController
  | setFullWindow
  | setWindow (xs ys xe ye : Nat)
  -- framebuffer
  | setPixel (x y : Int) (c : Color)
  | getPixel (x y : Int)
  | fill (c : Color)
  | fillRect (x y w h : Int) (c : Color)
  | rect (x y w h : Int) (c : Color)
  | drawText (text : List Byte) (x y : Int) (c : Color)
  | scaledText (text : List Byte) (x y : Int) (scale : Nat) (c : Color)
  -- display driver
  | newDriver
  | flush
  | fillScreen (c : Color)
  -- wire commands
  | wDisplayOn
  | wAddrModeSetup
  | wMemAddrMode
  | wMuxRatio
  | wDisplayOffset
  | wClockDiv
  | wPrecharge
  | wComPins
  | wVcomh
  | wSegRemap
  | wFullCol
  | wFullRow
  | wRamwrFull
  | wWinCol (xs xe : Nat)
  | wWinRow (ys ye : Nat)
  | wRamwrWin
  deriving DecidableEq, Repr

/-- The two encoding spaces (rule R90). -/
inductive Space where
  | host
  | wire
  deriving DecidableEq, Repr

/-- The thirteen operand registers `ARG_*` (rules R23 to R28). `ARG_X`, `ARG_Y`, `ARG_W`, `ARG_H`
are read as signed. -/
structure Operands where
  x : BitVec 16 := 0
  y : BitVec 16 := 0
  w : BitVec 16 := 0
  h : BitVec 16 := 0
  color : Color := 0
  scale : BitVec 16 := 0
  byte : Byte := 0
  blob : List Byte := []
  text : List Byte := []
  xs : Byte := 0
  ys : Byte := 0
  xe : Byte := 0
  ye : Byte := 0
  deriving DecidableEq, Repr

/-- A request: an operation code presented together with the operand registers (rule R91), and the
space the code is to be read in (DESIGN CHOICE, log 11). -/
structure Request where
  space : Space := .host
  op : Byte
  args : Operands := {}
  deriving DecidableEq, Repr

/-- The row of the opcode table an instruction stands for. -/
def Instr.mnemonic : Instr → String
  | .writeCommand _ => "WRITE_COMMAND"
  | .writeData _ => "WRITE_DATA"
  | .pulseReset => "PULSE_RESET"
  | .initController => "INITIALIZE"
  | .setFullWindow => "SET_FULL_WINDOW"
  | .setWindow _ _ _ _ => "SET_WINDOW"
  | .setPixel _ _ _ => "SET_PIXEL"
  | .getPixel _ _ => "GET_PIXEL"
  | .fill _ => "FILL"
  | .fillRect _ _ _ _ _ => "FILL_RECT"
  | .rect _ _ _ _ _ => "RECT"
  | .drawText _ _ _ _ => "DRAW_TEXT"
  | .scaledText _ _ _ _ _ => "SCALED_TEXT"
  | .newDriver => "NEW"
  | .flush => "FLUSH"
  | .fillScreen _ => "FILL_SCREEN"
  | .wDisplayOn => "W_DISPLAY_ON"
  | .wAddrModeSetup => "W_ADDR_MODE_SETUP"
  | .wMemAddrMode => "W_MEM_ADDR_MODE"
  | .wMuxRatio => "W_MUX_RATIO"
  | .wDisplayOffset => "W_DISPLAY_OFFSET"
  | .wClockDiv => "W_CLOCK_DIV"
  | .wPrecharge => "W_PRECHARGE"
  | .wComPins => "W_COM_PINS"
  | .wVcomh => "W_VCOMH"
  | .wSegRemap => "W_SEG_REMAP"
  | .wFullCol => "W_FULL_COL"
  | .wFullRow => "W_FULL_ROW"
  | .wRamwrFull => "W_RAMWR_FULL"
  | .wWinCol _ _ => "W_WIN_COL"
  | .wWinRow _ _ => "W_WIN_ROW"
  | .wRamwrWin => "W_RAMWR_WIN"

end Sys2Proof
end

