-- ==== Sys2Proof/Machine/State.lean ====
section
/-! DEFINITION. The state of the engine (rule R20), with the channel's draws and the host's list of
requests as the inputs it reads, the reasons a step can stop, and the state after power-on (rule
R54). -/

namespace Sys2Proof.Machine

/-- A line of the block: the spec's `unspecified` before the first event on it (rules R42 to R44), then
the level of its last event. -/
inductive Pin (α : Type) where
  | unspecified
  | driven (level : α)
  deriving DecidableEq, Repr

/-- The reset line: 0 is the source's "low", 1 its "high" (rules R12, R42). -/
inductive RstLevel where
  | low
  | high
  deriving DecidableEq, Repr

/-- Chip-select (rule R43). -/
inductive CsLevel where
  | active
  | inactive
  deriving DecidableEq, Repr

/-- The phase of the engine (rule R41). -/
inductive Phase where
  | off
  | idle
  | busy
  | failed
  deriving DecidableEq, Repr

/-- The ghost controller context (rule R46). -/
inductive Ctrl where
  | undefined
  | reset
  | configured
  | ramOpen
  deriving DecidableEq, Repr

/-- `RESULT` (rule R29): `ok`; `some(c)` and `none` of `GET_PIXEL`; `error(code)`. -/
inductive Result where
  | ok
  | pixel (c : Color)
  | noPixel
  | error (code : Byte)
  deriving DecidableEq, Repr

/-- The events of the wire trace (rule R12). -/
inductive Event where
  | rst (l : RstLevel)
  | cs (l : CsLevel)
  | dc (d : DcClass)
  | tx (b : Byte)
  | txFail
  | wait (ms : Nat)
  deriving DecidableEq, Repr

/-- The exceptions (rule R211). -/
inductive Exc where
  | transportError
  | boundsViolation
  | badOperand
  | unknownOp
  | notConstructed
  deriving DecidableEq, Repr

/-- Why a step can stop. -/
inductive Fault where
  /-- Raised by acceptance (`onDriverRequest`, `onRequest`) and by `unknownOp` when a request arrives while
  `BUSY = 1`: the host has no such move (rule R229, U10; log 3). Safe: the model stops where the spec
  gives no behaviour. -/
  | requestWhileBusy
  deriving DecidableEq, Repr

/-- Why a step can be refused. -/
inductive Refusal where
  /-- Raised by an arm of `exec` whose instruction has no meaning yet; no arm is left. Safe. -/
  | notModelled (mnemonic : String)
  deriving DecidableEq, Repr

/-- The state (rule R20), the configuration (rule R49) and the inputs. -/
structure State where
  /-- The control registers, constant after construction (rule R49). -/
  cfg : Config
  /-- The host's requests not yet issued, in order (rules R14, R229; log 2). -/
  host : List Request
  /-- The channel's outcomes for the next `TX` micro-steps, as far as the environment gives them; true
  is success (rule R212; log 4). -/
  draws : List Bool
  /-- How many draws have been taken (log 4). -/
  drawCount : Nat
  /-- `OP` (rule R22). -/
  op : Byte
  /-- `ARG_*` (rules R23 to R28). -/
  args : Operands
  /-- `RESULT` (rule R29). -/
  result : Result
  /-- `SEQ`, one index per nesting level, the innermost first (rule R33; log 17). -/
  seq : List Nat
  /-- `PTR` (rule R34). -/
  ptr : Nat
  /-- `BUSY` (rule R37). -/
  busy : Bool
  /-- `ERR` (rule R38). -/
  err : Bool
  /-- `ERRCODE` (rule R39). -/
  errCode : Byte
  /-- The ghost `EVER_ERR` (rule R38; log 16). -/
  everErr : Bool
  /-- `PHASE` (rule R41). -/
  phase : Phase
  /-- `RST` (rule R42). -/
  rst : Pin RstLevel
  /-- `CS` (rule R43). -/
  cs : Pin CsLevel
  /-- `DC` (rule R44). -/
  dc : Pin DcClass
  /-- `FB` (rule R51): the bytes written since the last `NEW`, by address, in canonical form. -/
  fb : List Host.Cell
  /-- How many times `NEW` has drawn the bytes of `FB` anew (log 5). -/
  fbGen : Nat
  /-- `TRACE`, oldest event first (rule R47). -/
  trace : List Event
  /-- The ghost `CTRL` (rule R46). -/
  ctrl : Ctrl
  deriving DecidableEq, Repr

/-- Power-on (rule R54, first column). `OP`, `ARG_*` and `RESULT` are unspecified there; the values
here are the model's (DESIGN CHOICE, log 6). -/
def State.reset : State where
  cfg := referenceConfig
  host := []
  draws := []
  drawCount := 0
  op := 0
  args := {}
  result := .ok
  seq := [0]
  ptr := 0
  busy := false
  err := false
  errCode := 0
  everErr := false
  phase := .off
  rst := .unspecified
  cs := .unspecified
  dc := .unspecified
  fb := []
  fbGen := 0
  trace := []
  ctrl := .undefined

end Sys2Proof.Machine
end

