-- ==== Sys2Proof/Machine/Flags.lean ====
section
/-! DEFINITION. The flag computations: the exception codes (rule R211) and the transitions of the
ghost `CTRL` (rule R250). The engine has no arithmetic condition codes (rule R40). -/

namespace Sys2Proof.Machine

/-- The code of an exception (rule R211). -/
def excCode : Exc → Byte
  | .transportError => 0x01
  | .boundsViolation => 0x02
  | .badOperand => 0x03
  | .unknownOp => 0x04
  | .notConstructed => 0x05

/-- `CTRL` after a completed addressing operation or trigger (rule R250): open from `CONFIGURED` or
`RAM_OPEN`. -/
def ctrlOpened : Ctrl → Ctrl
  | .configured => .ramOpen
  | .ramOpen => .ramOpen
  | .undefined => .undefined
  | .reset => .undefined

/-- `CTRL` after a completed `INITIALIZE` (rules R142, R250). -/
def ctrlInitialized : Ctrl → Ctrl
  | .reset => .configured
  | .undefined => .undefined
  | .configured => .undefined
  | .ramOpen => .undefined

/-- `CTRL` after a completed host `WRITE_DATA` (rules R122, R250). -/
def ctrlAfterData : Ctrl → Ctrl
  | .ramOpen => .ramOpen
  | .undefined => .undefined
  | .reset => .undefined
  | .configured => .undefined

/-- The RAM-write triggers (rules R157, R160). -/
def isTrigger (b : Byte) : Bool := b == 0x5C || b == 0x2C

/-- `CTRL` after a completed host `WRITE_COMMAND b` (rules R121, R250), and after a wire command run as
an operation of its own, whose last command byte is `b` (log 11). -/
def ctrlAfterCommand (b : Byte) (c : Ctrl) : Ctrl := if isTrigger b then ctrlOpened c else .undefined

/-- The precondition of `SET_WINDOW` (rules R144, R255). -/
def windowOk (c : Config) (xs ys xe ye : Nat) : Bool :=
  decide (xs ≤ xe) && decide (xe < c.width) && decide (ys ≤ ye) && decide (ye < c.height)

/-- `CTRL` after a completed `SET_WINDOW` (rule R250). -/
def ctrlAfterWindow (ok : Bool) (c : Ctrl) : Ctrl := if ok then ctrlOpened c else .undefined

end Sys2Proof.Machine
end

