-- ==== Sys2Proof/WellFormed.lean ====
section
/-! DEFINITION. Well-formed instructions: every operand lies in the range of the operand register it
is read from (rules R23, R25, R28). -/

namespace Sys2Proof

/-- The range of a 16-bit register read as signed (rule R23). -/
def fitsS16 (v : Int) : Bool := decide (-32768 ≤ v) && decide (v ≤ 32767)

/-- The range of a 16-bit register read as unsigned (rule R25). -/
def fitsU16 (v : Nat) : Bool := decide (v < 65536)

/-- The range of an 8-bit register read as unsigned (rule R28). -/
def fitsU8 (v : Nat) : Bool := decide (v < 256)

/-- Every operand fits its register. The window precondition and the scale's legality are not part of
it: the engine accepts those requests (rules R144, R216). -/
def Instr.wellFormed : Instr → Bool
  | .setWindow xs ys xe ye => fitsU8 xs && fitsU8 ys && fitsU8 xe && fitsU8 ye
  | .setPixel x y _ => fitsS16 x && fitsS16 y
  | .getPixel x y => fitsS16 x && fitsS16 y
  | .fillRect x y w h _ => fitsS16 x && fitsS16 y && fitsS16 w && fitsS16 h
  | .rect x y w h _ => fitsS16 x && fitsS16 y && fitsS16 w && fitsS16 h
  | .drawText _ x y _ => fitsS16 x && fitsS16 y
  | .scaledText _ x y scale _ => fitsS16 x && fitsS16 y && fitsU16 scale
  | .wWinCol xs xe => fitsU8 xs && fitsU8 xe
  | .wWinRow ys ye => fitsU8 ys && fitsU8 ye
  | .writeCommand _ | .writeData _ | .pulseReset | .initController | .setFullWindow | .fill _
  | .newDriver | .flush | .fillScreen _ | .wDisplayOn | .wAddrModeSetup | .wMemAddrMode | .wMuxRatio
  | .wDisplayOffset | .wClockDiv | .wPrecharge | .wComPins | .wVcomh | .wSegRemap | .wFullCol
  | .wFullRow | .wRamwrFull | .wRamwrWin => true

end Sys2Proof
end

