-- ==== Sys2Proof/Decode.lean ====
section
/-! DEFINITION. The two encoding spaces: the decoder and the encoder of host requests (rules R91, R93),
the operand bytes of the wire commands (rules R94 to R105), and the decoder of a byte trace (rules
R97, R106). -/

namespace Sys2Proof

/-- Why a code or a byte trace is no instruction. -/
inductive Reject where
  /-- the host code names no operation (rule R98) -/
  | unknownHostOp (op : Byte)
  /-- the byte is none of the sixteen wire opcodes (rule R99) -/
  | unknownWireOp (op : Byte)
  /-- a byte trace begins with a byte of class data -/
  | notACommand (b : Byte)
  /-- the operand bytes of a wire command are missing or are not the ones rule R96 gives it -/
  | badWireOperands (op : Byte)
  /-- the byte trace is empty -/
  | noBytes
  deriving DecidableEq, Repr

/-! ### Byte slices (rule R10) -/

/-- `v[7:0]` of a 16-bit value. -/
def lo8 (v : BitVec 16) : Byte := v.extractLsb' 0 8

/-- `v[15:8]` of a 16-bit value. -/
def hi8 (v : BitVec 16) : Byte := v.extractLsb' 8 8

/-! ### The host space (rules R91, R93) -/

/-- The operation codes of rule R93, with the operand registers of each format (rules R30, R91). -/
def decodeHost (op : Byte) (a : Operands) : Except Reject Instr :=
  match op.toNat with
  | 0x01 => .ok (.writeCommand a.byte)
  | 0x02 => .ok (.writeData a.blob)
  | 0x03 => .ok .pulseReset
  | 0x10 => .ok .initController
  | 0x11 => .ok .setFullWindow
  | 0x12 => .ok (.setWindow a.xs.toNat a.ys.toNat a.xe.toNat a.ye.toNat)
  | 0x20 => .ok (.setPixel a.x.toInt a.y.toInt a.color)
  | 0x21 => .ok (.getPixel a.x.toInt a.y.toInt)
  | 0x22 => .ok (.fill a.color)
  | 0x23 => .ok (.fillRect a.x.toInt a.y.toInt a.w.toInt a.h.toInt a.color)
  | 0x24 => .ok (.rect a.x.toInt a.y.toInt a.w.toInt a.h.toInt a.color)
  | 0x25 => .ok (.drawText a.text a.x.toInt a.y.toInt a.color)
  | 0x26 => .ok (.scaledText a.text a.x.toInt a.y.toInt a.scale.toNat a.color)
  | 0x30 => .ok .newDriver
  | 0x31 => .ok .flush
  | 0x32 => .ok (.fillScreen a.color)
  | _ => .error (.unknownHostOp op)

/-- The opcodes of rule R96; the bounds of the generic commands come from the window registers. -/
def decodeWire (op : Byte) (a : Operands) : Except Reject Instr :=
  match op.toNat with
  | 0xAF => .ok .wDisplayOn
  | 0x00 => .ok .wAddrModeSetup
  | 0x20 => .ok .wMemAddrMode
  | 0xA8 => .ok .wMuxRatio
  | 0xD3 => .ok .wDisplayOffset
  | 0xD5 => .ok .wClockDiv
  | 0xD9 => .ok .wPrecharge
  | 0xDA => .ok .wComPins
  | 0xDB => .ok .wVcomh
  | 0xA1 => .ok .wSegRemap
  | 0x15 => .ok .wFullCol
  | 0x75 => .ok .wFullRow
  | 0x5C => .ok .wRamwrFull
  | 0x2A => .ok (.wWinCol a.xs.toNat a.xe.toNat)
  | 0x2B => .ok (.wWinRow a.ys.toNat a.ye.toNat)
  | 0x2C => .ok .wRamwrWin
  | _ => .error (.unknownWireOp op)

/-- The decoder keys on the space first (INDEX.md, notes on opcode_table.json). -/
def decodeRequest (r : Request) : Except Reject Instr :=
  match r.space with
  | .host => decodeHost r.op r.args
  | .wire => decodeWire r.op r.args

/-- The space an instruction's code belongs to (rule R90). -/
def Instr.space : Instr → Space
  | .writeCommand _ | .writeData _ | .pulseReset | .initController | .setFullWindow
  | .setWindow _ _ _ _ | .setPixel _ _ _ | .getPixel _ _ | .fill _ | .fillRect _ _ _ _ _
  | .rect _ _ _ _ _ | .drawText _ _ _ _ | .scaledText _ _ _ _ _ | .newDriver | .flush
  | .fillScreen _ => .host
  | .wDisplayOn | .wAddrModeSetup | .wMemAddrMode | .wMuxRatio | .wDisplayOffset | .wClockDiv
  | .wPrecharge | .wComPins | .wVcomh | .wSegRemap | .wFullCol | .wFullRow | .wRamwrFull
  | .wWinCol _ _ | .wWinRow _ _ | .wRamwrWin => .wire

/-- An instruction's code in its space (rules R93, R96). -/
def Instr.opcode : Instr → Byte
  | .writeCommand _ => 0x01
  | .writeData _ => 0x02
  | .pulseReset => 0x03
  | .initController => 0x10
  | .setFullWindow => 0x11
  | .setWindow _ _ _ _ => 0x12
  | .setPixel _ _ _ => 0x20
  | .getPixel _ _ => 0x21
  | .fill _ => 0x22
  | .fillRect _ _ _ _ _ => 0x23
  | .rect _ _ _ _ _ => 0x24
  | .drawText _ _ _ _ => 0x25
  | .scaledText _ _ _ _ _ => 0x26
  | .newDriver => 0x30
  | .flush => 0x31
  | .fillScreen _ => 0x32
  | .wDisplayOn => 0xAF
  | .wAddrModeSetup => 0x00
  | .wMemAddrMode => 0x20
  | .wMuxRatio => 0xA8
  | .wDisplayOffset => 0xD3
  | .wClockDiv => 0xD5
  | .wPrecharge => 0xD9
  | .wComPins => 0xDA
  | .wVcomh => 0xDB
  | .wSegRemap => 0xA1
  | .wFullCol => 0x15
  | .wFullRow => 0x75
  | .wRamwrFull => 0x5C
  | .wWinCol _ _ => 0x2A
  | .wWinRow _ _ => 0x2B
  | .wRamwrWin => 0x2C

/-- The operand registers a request for the instruction loads (rule R91); the registers outside its
format are left zero or empty. -/
def Instr.operands : Instr → Operands
  | .writeCommand b => { byte := b }
  | .writeData blob => { blob := blob }
  | .setWindow xs ys xe ye =>
      { xs := BitVec.ofNat 8 xs, ys := BitVec.ofNat 8 ys, xe := BitVec.ofNat 8 xe, ye := BitVec.ofNat 8 ye }
  | .setPixel x y c => { x := BitVec.ofInt 16 x, y := BitVec.ofInt 16 y, color := c }
  | .getPixel x y => { x := BitVec.ofInt 16 x, y := BitVec.ofInt 16 y }
  | .fill c => { color := c }
  | .fillRect x y w h c =>
      { x := BitVec.ofInt 16 x, y := BitVec.ofInt 16 y, w := BitVec.ofInt 16 w, h := BitVec.ofInt 16 h, color := c }
  | .rect x y w h c =>
      { x := BitVec.ofInt 16 x, y := BitVec.ofInt 16 y, w := BitVec.ofInt 16 w, h := BitVec.ofInt 16 h, color := c }
  | .drawText t x y c => { text := t, x := BitVec.ofInt 16 x, y := BitVec.ofInt 16 y, color := c }
  | .scaledText t x y scale c =>
      { text := t, x := BitVec.ofInt 16 x, y := BitVec.ofInt 16 y, scale := BitVec.ofNat 16 scale, color := c }
  | .fillScreen c => { color := c }
  | .wWinCol xs xe => { xs := BitVec.ofNat 8 xs, xe := BitVec.ofNat 8 xe }
  | .wWinRow ys ye => { ys := BitVec.ofNat 8 ys, ye := BitVec.ofNat 8 ye }
  | .pulseReset | .initController | .setFullWindow | .newDriver | .flush | .wDisplayOn
  | .wAddrModeSetup | .wMemAddrMode | .wMuxRatio | .wDisplayOffset | .wClockDiv | .wPrecharge
  | .wComPins | .wVcomh | .wSegRemap | .wFullCol | .wFullRow | .wRamwrFull | .wRamwrWin => {}

/-- The encoder: the request that asks for the instruction. -/
def encode (i : Instr) : Request := { space := i.space, op := i.opcode, args := i.operands }

/-! ### The bytes of the wire commands (rules R94 to R105) -/

/-- `X_OFF` and `Y_OFF` (rule R8): the offsets of the generic window path only (rules R70, R102,
R103). -/
def xOff : Nat := 2

def yOff : Nat := 1

/-- One bound of a generic window command: most significant byte first with two bytes per bound, its
low byte alone with one (rule R102). -/
def boundBytes : BoundBytes → Nat → List Byte
  | .two, v => [BitVec.ofNat 8 (v / 256), BitVec.ofNat 8 v]
  | .one, v => [BitVec.ofNat 8 v]

/-- A command byte followed by operand bytes of class data (rules R94, R95). -/
def wireCommand (op : Byte) (operands : List Byte) : List WireByte :=
  (.cmd, op) :: operands.map (fun b => (.data, b))

/-- The full-window column command `0x15` (rules R100, R155). -/
def fullColBytes (c : Config) : List WireByte := wireCommand 0x15 [0x00, BitVec.ofNat 8 (c.width - 1)]

/-- The full-window row command `0x75` (rules R101, R156). -/
def fullRowBytes (c : Config) : List WireByte := wireCommand 0x75 [0x00, BitVec.ofNat 8 (c.height - 1)]

/-- The trigger of the full-window path (rule R157). -/
def ramwrFullBytes : List WireByte := wireCommand 0x5C []

/-- The generic column command `0x2A` (rules R102, R158). -/
def winColBytes (c : Config) (xs xe : Nat) : List WireByte :=
  wireCommand 0x2A (boundBytes c.winBoundBytes (xs + xOff) ++ boundBytes c.winBoundBytes (xe + xOff))

/-- The generic row command `0x2B` (rules R103, R159). -/
def winRowBytes (c : Config) (ys ye : Nat) : List WireByte :=
  wireCommand 0x2B (boundBytes c.winBoundBytes (ys + yOff) ++ boundBytes c.winBoundBytes (ye + yOff))

/-- The trigger of the generic path (rule R160). -/
def ramwrWinBytes : List WireByte := wireCommand 0x2C []

/-- The byte trace of `SET_FULL_WINDOW` (rule R143): column, row, trigger. -/
def fullWindowBytes (c : Config) : List WireByte := fullColBytes c ++ fullRowBytes c ++ ramwrFullBytes

/-- The byte trace of `SET_WINDOW` (rule R144): column, row, trigger, the bounds in operand order. -/
def windowBytes (c : Config) (xs ys xe ye : Nat) : List WireByte :=
  winColBytes c xs xe ++ winRowBytes c ys ye ++ ramwrWinBytes

/-- The byte trace of a wire command (rule R96); a host operation is no wire command. -/
def wireBytes (c : Config) : Instr → List WireByte
  | .wDisplayOn => wireCommand 0xAF []
  | .wAddrModeSetup => wireCommand 0x00 [0x10]
  | .wMemAddrMode => wireCommand 0x20 [0x00]
  | .wMuxRatio => wireCommand 0xA8 [0x3F]
  | .wDisplayOffset => wireCommand 0xD3 [0x00]
  | .wClockDiv => wireCommand 0xD5 [0x80]
  | .wPrecharge => wireCommand 0xD9 [0x22]
  | .wComPins => wireCommand 0xDA [0x12]
  | .wVcomh => wireCommand 0xDB [0x40]
  | .wSegRemap => wireCommand 0xA1 []
  | .wFullCol => fullColBytes c
  | .wFullRow => fullRowBytes c
  | .wRamwrFull => ramwrFullBytes
  | .wWinCol xs xe => winColBytes c xs xe
  | .wWinRow ys ye => winRowBytes c ys ye
  | .wRamwrWin => ramwrWinBytes
  | .writeCommand _ | .writeData _ | .pulseReset | .initController | .setFullWindow
  | .setWindow _ _ _ _ | .setPixel _ _ _ | .getPixel _ _ | .fill _ | .fillRect _ _ _ _ _
  | .rect _ _ _ _ _ | .drawText _ _ _ _ | .scaledText _ _ _ _ _ | .newDriver | .flush
  | .fillScreen _ => []

/-! ### Decoding a byte trace (rules R97, R106) -/

/-- The number of operand bytes a wire opcode takes (rules R96, R106). -/
def operandCount (c : Config) (op : Byte) : Option Nat :=
  match op.toNat with
  | 0xAF | 0xA1 | 0x5C | 0x2C => some 0
  | 0x00 | 0x20 | 0xA8 | 0xD3 | 0xD5 | 0xD9 | 0xDA | 0xDB => some 1
  | 0x15 | 0x75 => some 2
  | 0x2A | 0x2B =>
    match c.winBoundBytes with
    | .one => some 2
    | .two => some 4
  | _ => none

/-- The first `n` bytes of a byte trace, all of class data, and the rest. -/
def takeData : Nat → List WireByte → Option (List Byte × List WireByte)
  | 0, l => some ([], l)
  | n + 1, (.data, b) :: l =>
    match takeData n l with
    | some (bs, rest) => some (b :: bs, rest)
    | none => none
  | _ + 1, _ => none

/-- The bound whose offset form is `v`, if it is an 8-bit bound. -/
def unOffset (off v : Nat) : Option Nat :=
  if off ≤ v ∧ v - off < 256 then some (v - off) else none

/-- The two bounds of a generic window command from its operand bytes (rules R102, R103). -/
def boundsOf : BoundBytes → Nat → List Byte → Option (Nat × Nat)
  | .two, off, [a1, a0, e1, e0] =>
    match unOffset off (a1.toNat * 256 + a0.toNat), unOffset off (e1.toNat * 256 + e0.toNat) with
    | some a, some e => some (a, e)
    | _, _ => none
  | .one, off, [a, e] => some ((a - BitVec.ofNat 8 off).toNat, (e - BitVec.ofNat 8 off).toNat)
  | _, _, _ => none

/-- The instruction, provided the operand bytes are the ones rule R96 gives it. -/
def expectOperands (i : Instr) (want got : List Byte) : Option Instr := if got = want then some i else none

/-- The wire command with the opcode and operand bytes given (rule R96). -/
def wireInstr (c : Config) (op : Byte) (bs : List Byte) : Option Instr :=
  match op.toNat with
  | 0xAF => expectOperands .wDisplayOn [] bs
  | 0x00 => expectOperands .wAddrModeSetup [0x10] bs
  | 0x20 => expectOperands .wMemAddrMode [0x00] bs
  | 0xA8 => expectOperands .wMuxRatio [0x3F] bs
  | 0xD3 => expectOperands .wDisplayOffset [0x00] bs
  | 0xD5 => expectOperands .wClockDiv [0x80] bs
  | 0xD9 => expectOperands .wPrecharge [0x22] bs
  | 0xDA => expectOperands .wComPins [0x12] bs
  | 0xDB => expectOperands .wVcomh [0x40] bs
  | 0xA1 => expectOperands .wSegRemap [] bs
  | 0x15 => expectOperands .wFullCol [0x00, BitVec.ofNat 8 (c.width - 1)] bs
  | 0x75 => expectOperands .wFullRow [0x00, BitVec.ofNat 8 (c.height - 1)] bs
  | 0x5C => expectOperands .wRamwrFull [] bs
  | 0x2A => (boundsOf c.winBoundBytes xOff bs).map fun p => .wWinCol p.1 p.2
  | 0x2B => (boundsOf c.winBoundBytes yOff bs).map fun p => .wWinRow p.1 p.2
  | 0x2C => expectOperands .wRamwrWin [] bs
  | _ => none

/-- One wire command off the front of a byte trace, with the rest: the class tells opcode from
operand (rule R97), the opcode gives the length (rule R106). -/
def decodeByteTrace (c : Config) : List WireByte → Except Reject (Instr × List WireByte)
  | [] => .error .noBytes
  | (.data, b) :: _ => .error (.notACommand b)
  | (.cmd, op) :: rest =>
    match operandCount c op with
    | none => .error (.unknownWireOp op)
    | some n =>
      match takeData n rest with
      | none => .error (.badWireOperands op)
      | some (bs, rest') =>
        match wireInstr c op bs with
        | none => .error (.badWireOperands op)
        | some i => .ok (i, rest')

/-! ### Words of the opcode table -/

/-- The request for a table word: operand registers zero and empty; the code is read in the host space
where rule R93 has it and in the wire space where only rule R96 has it (log 12: the one code in both,
`0x20`, is read as `SET_PIXEL`). -/
def tableRequest (w : Nat) : Request :=
  let op := BitVec.ofNat 8 w
  match decodeHost op {}, decodeWire op {} with
  | .error _, .ok _ => { space := .wire, op := op }
  | _, _ => { space := .host, op := op }

/-- The instruction the decoder reads from a table word of `nbits` bits. Every row has eight. -/
def decodeTableWord (nbits w : Nat) : Option Instr :=
  if nbits = 8 ∧ w < 256 then
    match decodeRequest (tableRequest w) with
    | .ok i => some i
    | .error _ => none
  else none

end Sys2Proof
end

