-- ==== Sys2Proof/Machine/Operands.lean ====
section
/-! DEFINITION. Operand forms of the framebuffer operations (rules R61, R63, R190, R194 to R197): the
bounds test, the offset, the bytes of a colour, and the pixels each drawing operation touches. -/

namespace Sys2Proof.Machine

/-- `inb(x, y)`, on `x` and `y` separately (rule R190). -/
def inb (c : Config) (x y : Int) : Bool :=
  decide (0 ≤ x) && decide (x < c.width) && decide (0 ≤ y) && decide (y < c.height)

/-- `off(x, y) = (y*W + x) * 2` (rules R61, R190). -/
def off (c : Config) (x y : Int) : Nat := ((y * c.width + x) * 2).toNat

/-- The two bytes of a colour in the order they are stored (rule R63). -/
def colorBytes : ByteOrder → Color → Byte × Byte
  | .little, c => (lo8 c, hi8 c)
  | .big, c => (hi8 c, lo8 c)

/-- The colour whose stored bytes are `b0` then `b1` (rule R63). -/
def colorOfBytes : ByteOrder → Byte → Byte → Color
  | .little, b0, b1 => b1 ++ b0
  | .big, b0, b1 => b0 ++ b1

/-- `FONT(ch)(col, row)` (rule R196; bit layout: log 9). -/
def fontPixel (f : Font) (ch : Byte) (col row : Nat) : Bool :=
  (f[ch.toNat]).getLsbD (8 * row + col)

/-- The integers `lo, ..., lo + n - 1`; none when `n ≤ 0` (D13). -/
def intRange (lo n : Int) : List Int := (List.range n.toNat).map fun k : Nat => lo + k

/-- Those of `lo, ..., lo + n - 1` that lie in `0, ..., bound - 1` (log 27: the part `put` clips away is
never formed). -/
def clipRange (lo n : Int) (bound : Nat) : List Int :=
  intRange (max lo 0) (min (lo + n) bound - max lo 0)

/-- The pixels of the clipped rectangle, row by row (rule R194). -/
def rectPoints (c : Config) (x y w h : Int) : List (Int × Int) :=
  (clipRange y h c.height).flatMap fun j => (clipRange x w c.width).map fun i => (i, j)

/-- No pixel of the rectangle lies outside the buffer. -/
def rectInside (c : Config) (x y w h : Int) : Bool :=
  decide (w ≤ 0) || decide (h ≤ 0) ||
    (decide (0 ≤ x) && decide (x + w ≤ c.width) && decide (0 ≤ y) && decide (y + h ≤ c.height))

/-- The pixels of the outline, in the order of rule R195: the columns of the top and bottom rows, then
the rows of the left and right columns; none for an empty box. -/
def outlinePoints (c : Config) (x y w h : Int) : List (Int × Int) :=
  if 1 ≤ w ∧ 1 ≤ h then
    ((clipRange x w c.width).flatMap fun i => [(i, y), (i, y + h - 1)]) ++
      ((clipRange y h c.height).flatMap fun j => [(x, j), (x + w - 1, j)])
  else []

/-- The set pixels of one glyph whose cell has its corner at `(x, y)` (rule R196). -/
def glyphPoints (f : Font) (ch : Byte) (x y : Int) : List (Int × Int) :=
  (List.range 8).flatMap fun row : Nat =>
    ((List.range 8).filter fun col : Nat => fontPixel f ch col row).map fun col : Nat => (x + col, y + row)

/-- The set pixels of a text, one glyph per 8-pixel advance (rule R196). -/
def textPoints (f : Font) : List Byte → Int → Int → List (Int × Int)
  | [], _, _ => []
  | ch :: text, x, y => glyphPoints f ch x y ++ textPoints f text (x + 8) y

/-- The corner of the square drawn for the recorded pixel `(i, j)` (rule R197, step 5). -/
def scaledCorner (x y : Int) (scale : Nat) (p : Int × Int) : Int × Int :=
  (scale * p.1 - (scale - 1) * x, scale * p.2 - (scale - 1) * y)

/-- The pixels of the squares drawn for the recorded pixels (rule R197, step 5). -/
def blockPoints (c : Config) (x y : Int) (scale : Nat) (recorded : List (Int × Int)) : List (Int × Int) :=
  recorded.flatMap fun p => rectPoints c (scaledCorner x y scale p).1 (scaledCorner x y scale p).2 scale scale

/-- No pixel of those squares lies outside the buffer. -/
def blocksInside (c : Config) (x y : Int) (scale : Nat) (recorded : List (Int × Int)) : Bool :=
  recorded.all fun p => rectInside c (scaledCorner x y scale p).1 (scaledCorner x y scale p).2 scale scale

end Sys2Proof.Machine
end

