-- ==== Sys2Proof/Machine/Ops.lean ====
section
/-! DEFINITION. The shared operations: the framebuffer, the pins and the trace, the sequencer, the
channel, raising an exception, accepting and finishing a request, and the sub-sequences the
operations call (rules R11, R121 to R124, R142 to R144, R182, R214). -/

namespace Sys2Proof.Machine

/-! ### Memory: a list of cells, addresses strictly rising -/

/-- The byte listed at an address, if one is. -/
def cellRead : List Host.Cell → Nat → Option Byte
  | [], _ => none
  | (k, v) :: m, a => if k = a then some v else cellRead m a

/-- Put a byte at an address, keeping the order. -/
def cellWrite : List Host.Cell → Nat → Byte → List Host.Cell
  | [], a, b => [(a, b)]
  | (k, v) :: m, a, b =>
    if a < k then (a, b) :: (k, v) :: m
    else if a = k then (a, b) :: m
    else (k, v) :: cellWrite m a b

/-- The canonical form: addresses strictly rising. An unlisted address reads as a free value, so no
listed byte is known to equal it (log 5). -/
abbrev Memory.wf (m : List Host.Cell) : Prop := m.Pairwise fun p q => p.1 < q.1

/-- Every listed address lies in the framebuffer (rule R62). -/
abbrev Memory.within (n : Nat) (m : List Host.Cell) : Prop := ∀ p ∈ m, p.1 < n

/-- The cells of a framebuffer all of whose pixels are stored as `b0`, `b1` (rule R193). -/
def filledCells (pixels : Nat) (b0 b1 : Byte) : List Host.Cell :=
  (List.range pixels).flatMap fun p => [(2 * p, b0), (2 * p + 1, b1)]

/-! ### The framebuffer (rules R51, R61 to R64, R190) -/

/-- `FB[i]`: the byte written last, or the byte drawn at the last `NEW` (rules R11, R54; log 5). -/
def State.fbByte (s : State) (i : Nat) : Byte :=
  match cellRead s.fb i with
  | some b => b
  | none => Config.freeByte s.fbGen i

/-- `put(x, y, c)` (rules R190, R198 (a)): dropped outside the buffer. -/
def State.put (s : State) (p : Int × Int) (c : Color) : State :=
  if inb s.cfg p.1 p.2 then
    { s with
      fb := cellWrite
        (cellWrite s.fb (off s.cfg p.1 p.2) (colorBytes s.cfg.fbByteOrder c).1)
        (off s.cfg p.1 p.2 + 1) (colorBytes s.cfg.fbByteOrder c).2 }
  else s

/-- `put` at each pixel of a list, in order. -/
def State.paint (s : State) (ps : List (Int × Int)) (c : Color) : State := ps.foldl (fun s p => s.put p c) s

/-- `get(x, y)` (rules R190, R198 (a)). -/
def State.get (s : State) (x y : Int) : Option Color :=
  if inb s.cfg x y then
    some (colorOfBytes s.cfg.fbByteOrder (s.fbByte (off s.cfg x y)) (s.fbByte (off s.cfg x y + 1)))
  else none

/-- Every pixel of the buffer gets the colour (rules R193, R198 (b)). -/
def State.fillAll (s : State) (c : Color) : State :=
  { s with
    fb := filledCells (s.cfg.width * s.cfg.height) (colorBytes s.cfg.fbByteOrder c).1
      (colorBytes s.cfg.fbByteOrder c).2 }

/-- `N` fresh bytes, each unspecified (rule R181 step 0). -/
def State.freshFb (s : State) : State := { s with fb := [], fbGen := s.fbGen + 1 }

/-! ### Pins and trace (rules R11, R12) -/

/-- `emit RST(l)`. -/
def State.emitRst (s : State) (l : RstLevel) : State :=
  { s with rst := .driven l, trace := s.trace ++ [.rst l] }

/-- `emit CS(l)`. -/
def State.emitCs (s : State) (l : CsLevel) : State :=
  { s with cs := .driven l, trace := s.trace ++ [.cs l] }

/-- `emit DC(d)`. -/
def State.emitDc (s : State) (d : DcClass) : State :=
  { s with dc := .driven d, trace := s.trace ++ [.dc d] }

/-- `wait(t)`: one event that carries the lower bound (rules R11, R258). -/
def State.wait (s : State) (t : Nat) : State := { s with trace := s.trace ++ [.wait t] }

/-! ### The sequencer (rules R33 to R35) -/

/-- A micro-step of the innermost sequence has completed. -/
def State.nextStep (s : State) : State :=
  { s with
    seq := match s.seq with
      | k :: ks => (k + 1) :: ks
      | [] => [1] }

/-- A called sequence begins at its own step 0. -/
def State.enter (s : State) : State := { s with seq := 0 :: s.seq }

/-- A called sequence has ended. -/
def State.leave (s : State) : State := { s with seq := s.seq.tail }

/-- `PTR <- 0`. -/
def State.openData (s : State) : State := { s with ptr := 0 }

/-- `PTR <- PTR + 1`. -/
def State.nextByte (s : State) : State := { s with ptr := s.ptr + 1 }

/-! ### The channel (rule R212) -/

/-- The next draw of the channel: the environment's, or else a free value (log 4). -/
def State.nextDraw (s : State) : Bool :=
  match s.draws with
  | d :: _ => d
  | [] => Config.txSucceeds s.drawCount

/-- A draw has been taken. -/
def State.drawn (s : State) : State := { s with draws := s.draws.tail, drawCount := s.drawCount + 1 }

/-- A byte has been delivered. -/
def State.sent (s : State) (b : Byte) : State := { s with trace := s.trace ++ [.tx b] }

/-- A run of micro-steps: it goes on, or stands at a `TX` that failed. -/
inductive Flow where
  | going (s : State)
  | failed (s : State)
  deriving DecidableEq, Repr

/-- Go on with the next micro-steps; after a failed `TX` none runs (rule R214). -/
def Flow.andThen : Flow → (State → Flow) → Flow
  | .going s, f => f s
  | .failed s, _ => .failed s

/-- Go on with a micro-step that cannot fail. -/
def Flow.thenDo : Flow → (State → State) → Flow
  | .going s, f => .going (f s)
  | .failed s, _ => .failed s

/-- `TX(b)` (rules R11, R212): one draw. -/
def tx (b : Byte) (s : State) : Flow :=
  if s.nextDraw then .going (s.drawn.sent b) else .failed s.drawn

/-! ### Exceptions (rules R211, R214 to R218) -/

/-- What every exception writes: `ERR`, `ERRCODE`, `RESULT` and the ghost `EVER_ERR`. Alone it is a
request turned away at acceptance (rules R216 to R218, R35). -/
def State.raise (s : State) (e : Exc) : State :=
  { s with err := true, errCode := excCode e, result := .error (excCode e), everErr := true }

/-- A byte has failed: `TXFAIL`, which stands for any prefix of the byte (rule R212). -/
def State.sendFailed (s : State) : State := { s with trace := s.trace ++ [.txFail] }

/-- The abort at a failing `TX` (rule R214), in its order; `failPhase` is `FAILED` when the outermost
operation is `NEW` and `IDLE` otherwise. `SEQ`, `PTR` and `FB` keep their values. -/
def State.abort (s : State) (failPhase : Phase) : State :=
  { (s.sendFailed.emitCs .inactive).raise .transportError with
    ctrl := .undefined
    busy := false
    phase := failPhase }

/-- `BoundsViolation` under `OOB_POLICY = reject` (rule R215; log 14): the operation ends with no byte
of `FB` written. -/
def State.boundsViolation (s : State) : State := { s.raise .boundsViolation with busy := false, phase := .idle }

/-! ### Acceptance and completion (rules R33, R35, R37, R38, R41, R218) -/

/-- A request is accepted. -/
def State.accept (s : State) : State := { s with busy := true, phase := .busy, seq := [0], ptr := 0 }

/-- `done(r)`. -/
def State.done (s : State) (r : Result) : State :=
  { s with busy := false, phase := .idle, err := false, errCode := 0, result := r, seq := [0] }

/-- Write the ghost `CTRL`. -/
def State.setCtrl (s : State) (c : Ctrl) : State := { s with ctrl := c }

/-- The end of an operation that transmits: done with the `CTRL` given, or aborted. -/
def Flow.conclude (f : Flow) (c : Ctrl) (failPhase : Phase) : State :=
  match f with
  | .going s => (s.setCtrl c).done .ok
  | .failed s => s.abort failPhase

/-- A request accepted in every phase (rule R41: `NEW`). -/
def onRequest (s : State) (run : State → State) : Host.Outcome State Fault Refusal :=
  if s.busy then .fault .requestWhileBusy else .next (run s)

/-- A driver exists (rule R41). -/
def constructed : Phase → Bool
  | .off => false
  | .failed => false
  | .idle => true
  | .busy => true

/-- A request accepted only when a driver exists (rule R218). `run` gets the state before acceptance,
so that `BadOperand` can be raised there (rule R216). -/
def onDriverRequest (s : State) (run : State → State) : Host.Outcome State Fault Refusal :=
  onRequest s fun s => if constructed s.phase then run s else s.raise .notConstructed

/-- An operation that transmits: accepted, run, concluded. -/
def transmit (s : State) (body : State → Flow) (c : Ctrl) : Host.Outcome State Fault Refusal :=
  onDriverRequest s fun s => (body s.accept).conclude c .idle

/-- A framebuffer operation (one step, rule R33) whose pixels all lie inside the buffer when `inside`
says so: under `reject` it violates the bounds otherwise (rule R215; log 14). -/
def framebufferOp (s : State) (inside : Bool) (run : State → State) : Host.Outcome State Fault Refusal :=
  onDriverRequest s fun s =>
    if s.cfg.oobPolicy = .reject ∧ inside = false then s.accept.boundsViolation else run s.accept

/-! ### Sub-sequences (rules R121 to R124) -/

/-- `call`: the body runs at its own level; a failure leaves the levels as they stand (rule R35). -/
def call (body : State → Flow) (s : State) : Flow := (body s.enter).thenDo State.leave

/-- The micro-steps of `WRITE_COMMAND` (rule R121). -/
def writeCommandBody (b : Byte) (s : State) : Flow :=
  (tx b (((s.emitCs .active).nextStep).emitDc .cmd).nextStep).thenDo fun s => s.nextStep.emitCs .inactive

/-- Step 2 of `WRITE_DATA`: the bytes of a blob, one `TX` each (rule R122). -/
def sendBlob : List Byte → State → Flow
  | [], s => .going s
  | b :: bs, s => (tx b s).andThen fun s => sendBlob bs s.nextByte

/-- Step 2 of `WRITE_DATA` over `FB` in place: `n` more bytes, byte `PTR` read at the micro-step that
sends it (rules R77, R124). -/
def sendFb : Nat → State → Flow
  | 0, s => .going s
  | n + 1, s => (tx (s.fbByte s.ptr) s).andThen fun s => sendFb n s.nextByte

/-- The micro-steps of `WRITE_DATA` around its byte loop (rule R122). -/
def dataFrame (send : State → Flow) (s : State) : Flow :=
  (send ((((s.emitCs .active).nextStep).emitDc .data).openData).nextStep).thenDo fun s =>
    s.nextStep.emitCs .inactive

/-- The micro-steps of `WRITE_DATA` (rule R122). -/
def writeDataBody (blob : List Byte) (s : State) : Flow := dataFrame (sendBlob blob) s

/-- `cmd(b)` or `dat(b)` (rule R124). -/
def sendByte (w : WireByte) (s : State) : Flow :=
  match w with
  | (.cmd, b) => call (writeCommandBody b) s
  | (.data, b) => call (writeDataBody [b]) s

/-- One frame per byte of a byte trace, one micro-step of the caller each (rules R142 to R144). -/
def sendBytes : List WireByte → State → Flow
  | [], s => .going s
  | w :: ws, s => (sendByte w s).andThen fun s => sendBytes ws s.nextStep

/-- The micro-steps of `PULSE_RESET` (rule R123). -/
def pulseResetBody (s : State) : State :=
  let s := (s.emitRst .high).nextStep
  let s := (s.wait s.cfg.tRstHi).nextStep
  let s := (s.emitRst .low).nextStep
  let s := (s.wait s.cfg.tRstLo).nextStep
  let s := (s.emitRst .high).nextStep
  (if s.cfg.tRstPost = 0 then s else s.wait s.cfg.tRstPost).nextStep

/-- The micro-steps of `INITIALIZE` (rule R142). -/
def initializeBody (s : State) : Flow := sendBytes s.cfg.initTable s

/-- The micro-steps of `SET_FULL_WINDOW` (rule R143). -/
def fullWindowBody (s : State) : Flow := sendBytes (fullWindowBytes s.cfg) s

/-- The micro-steps of `FLUSH` (rule R182). -/
def flushBody (s : State) : Flow :=
  ((call fullWindowBody s).thenDo State.nextStep).andThen fun s =>
    (call (dataFrame (sendFb s.cfg.fbLen)) s).thenDo State.nextStep

/-- The micro-steps of `FILL_SCREEN` (rule R183). -/
def fillScreenBody (c : Color) (s : State) : Flow :=
  (call flushBody (s.fillAll c).nextStep).thenDo State.nextStep

/-- The micro-steps of `NEW` (rules R181, R250: it passes through `RESET`). -/
def newBody (s : State) : Flow :=
  let s := ({ s.freshFb with err := false, errCode := 0, ptr := 0 }).nextStep
  let s := (((pulseResetBody s.enter).leave).setCtrl .reset).nextStep
  (call initializeBody s).thenDo State.nextStep

/-- `SCALED_TEXT` steps 2 to 5 with the snapshot `background` (rules R197, R198 (d), (e)); under `reject` every pixel
put or got must lie inside (rule R215; log 14). -/
def State.scaleText (s : State) (text : List Byte) (x y : Int) (scale : Nat) (c background : Color) : State :=
  let glyphs := textPoints s.cfg.font text x y
  let drawn := s.paint glyphs c
  let recorded := (rectPoints s.cfg x y (8 * text.length) 8).filter fun p => decide (drawn.get p.1 p.2 = some c)
  let inside := glyphs.all (fun p => inb s.cfg p.1 p.2) && rectInside s.cfg x y (8 * text.length) 8 &&
    blocksInside s.cfg x y scale recorded
  if s.cfg.oobPolicy = .reject ∧ inside = false then s.boundsViolation
  else ((drawn.paint glyphs background).paint (blockPoints s.cfg x y scale recorded) c).done .ok

/-! ### The request port (rules R31, R91, R229) -/

/-- The host loads `OP` and the operand registers with the request it issues. -/
def State.latch (s : State) (r : Request) (rest : List Request) : State :=
  { s with host := rest, op := r.op, args := r.args }

/-- The next request: what it decodes to, with the registers loaded; none when the host's list is
exhausted. -/
def fetch (s : State) : Option (Except Reject Instr × State) :=
  match s.host with
  | [] => none
  | r :: rest => some (decodeRequest r, s.latch r rest)

/-- No request: the engine stays as it is (rule R248; log 2). -/
def idleStep (s : State) : Host.Outcome State Fault Refusal := .next s

/-- `UnknownOp`, checked first, in every phase (rules R217, R221). -/
def unknownOp (s : State) : Host.Outcome State Fault Refusal := onRequest s fun s => s.raise .unknownOp

/-- Put a request where the next step takes it. -/
def State.withRequest (s : State) (r : Request) : State := { s with host := r :: s.host }

end Sys2Proof.Machine
end

