-- ==== Sys2Proof/Machine/Driver.lean ====
section
/-! DEFINITION. Display driver: `NEW`, `FLUSH`, `FILL_SCREEN` (rules R181 to R183). -/

namespace Sys2Proof.Machine

/-- `NEW` (rule R181): accepted in every phase; a failure leaves `FAILED` (rule R55). -/
def execNewDriver (s : State) : Host.Outcome State Fault Refusal :=
  onRequest s fun s => (newBody s.accept).conclude .configured .failed

/-- `FLUSH` (rule R182). -/
def execFlush (s : State) : Host.Outcome State Fault Refusal :=
  transmit s flushBody (ctrlOpened s.ctrl)

/-- `FILL_SCREEN color` (rule R183). -/
def execFillScreen (c : Color) (s : State) : Host.Outcome State Fault Refusal :=
  transmit s (fillScreenBody c) (ctrlOpened s.ctrl)

end Sys2Proof.Machine
end

