-- ==== Sys2Proof/Machine/Framebuffer.lean ====
section
/-! DEFINITION. Framebuffer operations: `SET_PIXEL`, `GET_PIXEL`, `FILL`, `FILL_RECT`, `RECT`,
`DRAW_TEXT`, `SCALED_TEXT` (rules R190 to R197). None moves a pin (rules R77, R199). The laws of rule R198
are laws of these meanings: (a) of `execSetPixel` and `execGetPixel`, (b) of `execFill`, (c) of
`execFillRect` and `execRect`, (d) of `execScaledText` and `execDrawText`, (e) of `execScaledText`. -/

namespace Sys2Proof.Machine

/-- `SET_PIXEL x, y, color` (rule R191). -/
def execSetPixel (x y : Int) (c : Color) (s : State) : Host.Outcome State Fault Refusal :=
  framebufferOp s (inb s.cfg x y) fun s => (s.put (x, y) c).done .ok

/-- `GET_PIXEL x, y` (rule R192). -/
def execGetPixel (x y : Int) (s : State) : Host.Outcome State Fault Refusal :=
  framebufferOp s (inb s.cfg x y) fun s =>
    match s.get x y with
    | some c => s.done (.pixel c)
    | none => s.done .noPixel

/-- `FILL color` (rule R193). -/
def execFill (c : Color) (s : State) : Host.Outcome State Fault Refusal :=
  framebufferOp s true fun s => (s.fillAll c).done .ok

/-- `FILL_RECT x, y, w, h, color` (rule R194). -/
def execFillRect (x y w h : Int) (c : Color) (s : State) : Host.Outcome State Fault Refusal :=
  framebufferOp s (rectInside s.cfg x y w h) fun s => (s.paint (rectPoints s.cfg x y w h) c).done .ok

/-- `RECT x, y, w, h, color` (rule R195): the outline lies inside the buffer when its box does. -/
def execRect (x y w h : Int) (c : Color) (s : State) : Host.Outcome State Fault Refusal :=
  framebufferOp s (rectInside s.cfg x y w h) fun s => (s.paint (outlinePoints s.cfg x y w h) c).done .ok

/-- `DRAW_TEXT text, x, y, color` (rule R196). -/
def execDrawText (text : List Byte) (x y : Int) (c : Color) (s : State) : Host.Outcome State Fault Refusal :=
  framebufferOp s ((textPoints s.cfg.font text x y).all fun p => inb s.cfg p.1 p.2) fun s =>
    (s.paint (textPoints s.cfg.font text x y) c).done .ok

/-- `SCALED_TEXT text, x, y, scale, color` (rules R197, R216): an anchor outside the buffer or a scale
of 0 is turned away at acceptance; else step 1 takes the snapshot. -/
def execScaledText (text : List Byte) (x y : Int) (scale : Nat) (c : Color) (s : State) :
    Host.Outcome State Fault Refusal :=
  onDriverRequest s fun s =>
    match if scale = 0 then none else s.get x y with
    | none => s.raise .badOperand
    | some background => s.accept.scaleText text x y scale c background

end Sys2Proof.Machine
end

