-- ==== Sys2Proof/Machine/Protocol.lean ====
section
/-! DEFINITION. Controller protocol: `INITIALIZE`, `SET_FULL_WINDOW`, `SET_WINDOW` (rules R142 to
R144). -/

namespace Sys2Proof.Machine

/-- `INITIALIZE` (rule R142). -/
def execInitController (s : State) : Host.Outcome State Fault Refusal :=
  transmit s initializeBody (ctrlInitialized s.ctrl)

/-- `SET_FULL_WINDOW` (rule R143). -/
def execSetFullWindow (s : State) : Host.Outcome State Fault Refusal :=
  transmit s fullWindowBody (ctrlOpened s.ctrl)

/-- `SET_WINDOW xs, ys, xe, ye` (rule R144): the precondition decides the ghost `CTRL` and nothing
else. -/
def execSetWindow (xs ys xe ye : Nat) (s : State) : Host.Outcome State Fault Refusal :=
  transmit s (fun s => sendBytes (windowBytes s.cfg xs ys xe ye) s)
    (ctrlAfterWindow (windowOk s.cfg xs ys xe ye) s.ctrl)

end Sys2Proof.Machine
end

