-- ==== Sys2Proof/Machine/Transport.lean ====
section
/-! DEFINITION. Bus transport: `WRITE_COMMAND`, `WRITE_DATA`, `PULSE_RESET` (rules R121 to R123). -/

namespace Sys2Proof.Machine

/-- `WRITE_COMMAND b` (rule R121). -/
def execWriteCommand (b : Byte) (s : State) : Host.Outcome State Fault Refusal :=
  transmit s (writeCommandBody b) (ctrlAfterCommand b s.ctrl)

/-- `WRITE_DATA blob` (rule R122). -/
def execWriteData (blob : List Byte) (s : State) : Host.Outcome State Fault Refusal :=
  transmit s (writeDataBody blob) (ctrlAfterData s.ctrl)

/-- `PULSE_RESET` (rule R123). -/
def execPulseReset (s : State) : Host.Outcome State Fault Refusal :=
  onDriverRequest s fun s => ((pulseResetBody s.accept).setCtrl .reset).done .ok

end Sys2Proof.Machine
end

