-- ==== Sys2Proof/Machine/Wire.lean ====
section
/-! DEFINITION. The sixteen wire commands (rules R145 to R160): the engine does nothing on emitting one
beyond appending its frames. Each is a part of `INITIALIZE`, `SET_FULL_WINDOW` or `SET_WINDOW`, whose
meanings send the same bytes; run as an operation of its own (log 11) it is accepted as any request
and its ghost effect is that of its lone command byte (rules R99, R121). -/

namespace Sys2Proof.Machine

/-- A wire command run as an operation of its own: its frames, with the ghost effect of its command
byte `op` (log 11). -/
def wireOp (s : State) (bytes : List WireByte) (op : Byte) : Host.Outcome State Fault Refusal :=
  transmit s (sendBytes bytes) (ctrlAfterCommand op s.ctrl)

/-- `0xAF`, display-on (rule R145). -/
def execWDisplayOn (s : State) : Host.Outcome State Fault Refusal :=
  wireOp s (wireBytes s.cfg .wDisplayOn) 0xAF

/-- `0x00`, column/row address mode setup (rule R146). -/
def execWAddrModeSetup (s : State) : Host.Outcome State Fault Refusal :=
  wireOp s (wireBytes s.cfg .wAddrModeSetup) 0x00

/-- `0x20`, memory addressing mode (rule R147). -/
def execWMemAddrMode (s : State) : Host.Outcome State Fault Refusal :=
  wireOp s (wireBytes s.cfg .wMemAddrMode) 0x20

/-- `0xA8`, multiplex ratio (rule R148). -/
def execWMuxRatio (s : State) : Host.Outcome State Fault Refusal :=
  wireOp s (wireBytes s.cfg .wMuxRatio) 0xA8

/-- `0xD3`, display offset (rule R149). -/
def execWDisplayOffset (s : State) : Host.Outcome State Fault Refusal :=
  wireOp s (wireBytes s.cfg .wDisplayOffset) 0xD3

/-- `0xD5`, clock divide ratio (rule R150). -/
def execWClockDiv (s : State) : Host.Outcome State Fault Refusal :=
  wireOp s (wireBytes s.cfg .wClockDiv) 0xD5

/-- `0xD9`, pre-charge period (rule R151). -/
def execWPrecharge (s : State) : Host.Outcome State Fault Refusal :=
  wireOp s (wireBytes s.cfg .wPrecharge) 0xD9

/-- `0xDA`, COM pin configuration (rule R152). -/
def execWComPins (s : State) : Host.Outcome State Fault Refusal :=
  wireOp s (wireBytes s.cfg .wComPins) 0xDA

/-- `0xDB`, VCOMH level (rule R153). -/
def execWVcomh (s : State) : Host.Outcome State Fault Refusal :=
  wireOp s (wireBytes s.cfg .wVcomh) 0xDB

/-- `0xA1`, segment remap (rule R154). -/
def execWSegRemap (s : State) : Host.Outcome State Fault Refusal :=
  wireOp s (wireBytes s.cfg .wSegRemap) 0xA1

/-- `0x15`, full-window column command (rule R155). -/
def execWFullCol (s : State) : Host.Outcome State Fault Refusal :=
  wireOp s (wireBytes s.cfg .wFullCol) 0x15

/-- `0x75`, full-window row command (rule R156). -/
def execWFullRow (s : State) : Host.Outcome State Fault Refusal :=
  wireOp s (wireBytes s.cfg .wFullRow) 0x75

/-- `0x5C`, RAM-write trigger of the full-window path (rule R157). -/
def execWRamwrFull (s : State) : Host.Outcome State Fault Refusal :=
  wireOp s (wireBytes s.cfg .wRamwrFull) 0x5C

/-- `0x2A`, generic windowed column command (rule R158). -/
def execWWinCol (xs xe : Nat) (s : State) : Host.Outcome State Fault Refusal :=
  wireOp s (wireBytes s.cfg (.wWinCol xs xe)) 0x2A

/-- `0x2B`, generic windowed row command (rule R159). -/
def execWWinRow (ys ye : Nat) (s : State) : Host.Outcome State Fault Refusal :=
  wireOp s (wireBytes s.cfg (.wWinRow ys ye)) 0x2B

/-- `0x2C`, RAM-write trigger of the generic path (rule R160). -/
def execWRamwrWin (s : State) : Host.Outcome State Fault Refusal :=
  wireOp s (wireBytes s.cfg .wRamwrWin) 0x2C

end Sys2Proof.Machine
end

