-- ==== Sys2Proof/Machine/Dispatch.lean ====
section
/-! DEFINITION. The dispatch: one arm per row of the opcode table. -/

namespace Sys2Proof.Machine

def exec (i : Instr) (s : State) : Host.Outcome State Fault Refusal :=
  match i with
  | .writeCommand b => Sys2Proof.Machine.execWriteCommand b s
  | .writeData blob => Sys2Proof.Machine.execWriteData blob s
  | .pulseReset => Sys2Proof.Machine.execPulseReset s
  | .initController => Sys2Proof.Machine.execInitController s
  | .setFullWindow => Sys2Proof.Machine.execSetFullWindow s
  | .setWindow xs ys xe ye => Sys2Proof.Machine.execSetWindow xs ys xe ye s
  | .setPixel x y c => Sys2Proof.Machine.execSetPixel x y c s
  | .getPixel x y => Sys2Proof.Machine.execGetPixel x y s
  | .fill c => Sys2Proof.Machine.execFill c s
  | .fillRect x y w h c => Sys2Proof.Machine.execFillRect x y w h c s
  | .rect x y w h c => Sys2Proof.Machine.execRect x y w h c s
  | .drawText text x y c => Sys2Proof.Machine.execDrawText text x y c s
  | .scaledText text x y scale c => Sys2Proof.Machine.execScaledText text x y scale c s
  | .newDriver => Sys2Proof.Machine.execNewDriver s
  | .flush => Sys2Proof.Machine.execFlush s
  | .fillScreen c => Sys2Proof.Machine.execFillScreen c s
  | .wDisplayOn => Sys2Proof.Machine.execWDisplayOn s
  | .wAddrModeSetup => Sys2Proof.Machine.execWAddrModeSetup s
  | .wMemAddrMode => Sys2Proof.Machine.execWMemAddrMode s
  | .wMuxRatio => Sys2Proof.Machine.execWMuxRatio s
  | .wDisplayOffset => Sys2Proof.Machine.execWDisplayOffset s
  | .wClockDiv => Sys2Proof.Machine.execWClockDiv s
  | .wPrecharge => Sys2Proof.Machine.execWPrecharge s
  | .wComPins => Sys2Proof.Machine.execWComPins s
  | .wVcomh => Sys2Proof.Machine.execWVcomh s
  | .wSegRemap => Sys2Proof.Machine.execWSegRemap s
  | .wFullCol => Sys2Proof.Machine.execWFullCol s
  | .wFullRow => Sys2Proof.Machine.execWFullRow s
  | .wRamwrFull => Sys2Proof.Machine.execWRamwrFull s
  | .wWinCol xs xe => Sys2Proof.Machine.execWWinCol xs xe s
  | .wWinRow ys ye => Sys2Proof.Machine.execWWinRow ys ye s
  | .wRamwrWin => Sys2Proof.Machine.execWRamwrWin s

end Sys2Proof.Machine
end

