-- ==== Sys2Proof/Machine/Step.lean ====
section
/-! DEFINITION. One step: the next request of the host is loaded, decoded and run to its end (rules
R74, R91, R229; log 1). -/

namespace Sys2Proof.Machine

/-- One step of the machine. -/
def step (s : State) : Host.Outcome State Fault Refusal :=
  match fetch s with
  | none => idleStep s
  | some (.ok i, t) => exec i t
  | some (.error _, t) => unknownOp t

/-- The state with the request of a table word put where the next step takes it. -/
def State.withFetchWord (s : State) (nbits w : Nat) : State :=
  if nbits = 8 ∧ w < 256 then s.withRequest (tableRequest w) else s

end Sys2Proof.Machine
end

