-- ==== Sys2Proof/Safety.lean ====
section
/-! DEFINITION. What claims are stated in: the premises on a state, the frames and the byte trace of a
wire trace (rules R13, R125), the state a completed or failed operation leaves, and the invariant. -/

namespace Sys2Proof.Machine

/-! ### Premises -/

/-- A request may be made: no operation runs and a driver exists (rules R37, R41). -/
abbrev Ready (s : State) : Prop := s.busy = false ∧ s.phase = .idle

/-- The outcome of the `k`-th draw from here (rule R212): the environment's where it gives one, a free
value otherwise. -/
def State.drawAt (s : State) (k : Nat) : Bool :=
  match s.draws[k]? with
  | some d => d
  | none => Config.txSucceeds (s.drawCount + k)

/-- None of the next `n` transmissions fails (the named premise of rule R212). -/
abbrev NoTxFails (s : State) (n : Nat) : Prop := ∀ k, k < n → s.drawAt k = true

/-- The next `n` transmissions succeed and the one after them fails. -/
abbrev TxFailsAt (s : State) (n : Nat) : Prop := NoTxFails s n ∧ s.drawAt n = false

/-- `n` draws have been taken. -/
def State.drawnBy (s : State) (n : Nat) : State :=
  { s with draws := s.draws.drop n, drawCount := s.drawCount + n }

/-! ### Frames and byte traces (rule R13) -/

/-- `C[b]` or `D[b]`: the frame of one byte. -/
def frameOf (w : WireByte) : List Event := [.cs .active, .dc w.1, .tx w.2, .cs .inactive]

/-- The frames of a byte trace sent one byte a frame (rule R95). -/
def framesOf (ws : List WireByte) : List Event := ws.flatMap frameOf

/-- `D[b0 ... bn-1]`, one frame. -/
def dataFrameOf (bs : List Byte) : List Event :=
  [.cs .active, .dc .data] ++ bs.map .tx ++ [.cs .inactive]

/-- A data frame cut by a failed transmission after the bytes given (rules R122, R214). -/
def cutDataFrameOf (bs : List Byte) : List Event :=
  [.cs .active, .dc .data] ++ bs.map .tx ++ [.txFail, .cs .inactive]

/-- A one-byte frame cut by the failure of its byte. -/
def cutFrameOf (d : DcClass) : List Event := [.cs .active, .dc d, .txFail, .cs .inactive]

/-- The reset pulse (rule R123). -/
def resetPulseOf (c : Config) : List Event :=
  [.rst .high, .wait c.tRstHi, .rst .low, .wait c.tRstLo, .rst .high] ++
    (if c.tRstPost = 0 then [] else [.wait c.tRstPost])

/-- The byte trace: one pair per delivered byte, with the `DC` state at that event; `d` is the state
before the first event. -/
def byteTraceFrom : DcClass → List Event → List WireByte
  | _, [] => []
  | _, .dc d :: es => byteTraceFrom d es
  | d, .tx b :: es => (d, b) :: byteTraceFrom d es
  | d, .rst _ :: es => byteTraceFrom d es
  | d, .cs _ :: es => byteTraceFrom d es
  | d, .txFail :: es => byteTraceFrom d es
  | d, .wait _ :: es => byteTraceFrom d es

/-- Where a trace stands in the frame grammar of rule R125. -/
inductive FrameState where
  | outside
  | opened
  | inside
  deriving DecidableEq, Repr

/-- One event of the frame grammar: chip-select alternates, a `DC` event directly follows the
activation and stands nowhere else, bytes only inside, `RST` and `WAIT` only outside. -/
def frameStep : FrameState → Event → Option FrameState
  | .outside, .cs .active => some .opened
  | .outside, .rst _ => some .outside
  | .outside, .wait _ => some .outside
  | .opened, .dc _ => some .inside
  | .inside, .tx _ => some .inside
  | .inside, .txFail => some .inside
  | .inside, .cs .inactive => some .outside
  | _, _ => none

/-- The frame grammar over a trace. -/
def frameRun : FrameState → List Event → Option FrameState
  | f, [] => some f
  | f, e :: es =>
    match frameStep f e with
    | some g => frameRun g es
    | none => none

/-- Every frame of the trace is well bracketed and closed (rule R125). -/
def bracketed (es : List Event) : Prop := frameRun .outside es = some .outside

/-! ### The state an operation leaves -/

/-- What every completed operation leaves in the sequencer, the flags and the result (rules R33, R35,
R37 to R39, R41), with `PTR` cleared at acceptance. -/
def State.finished (s : State) (r : Result) : State :=
  { s with
    seq := [0], ptr := 0, busy := false, err := false, errCode := 0, result := r, phase := .idle }

/-- What a request turned away at acceptance leaves: `ERR`, `ERRCODE`, `RESULT` and nothing else but
the ghost `EVER_ERR` (rules R35, R216 to R218). -/
def State.turnedAway (s : State) (code : Byte) : State :=
  { s with err := true, errCode := code, result := .error code, everErr := true }

/-- What a transport failure leaves in the flags and the ghost (rule R214). -/
def State.transportFailed (s : State) (failPhase : Phase) : State :=
  { s with
    err := true, errCode := 0x01, result := .error 0x01, everErr := true, busy := false, phase := failPhase,
    cs := .driven .inactive, ctrl := .undefined }

/-- The level of the chip-select line after the frames of a byte trace. -/
def csAfter (ws : List WireByte) (p : Pin CsLevel) : Pin CsLevel := if ws = [] then p else .driven .inactive

/-- The level of the data/command line after the frames of a byte trace. -/
def dcAfter (ws : List WireByte) (p : Pin DcClass) : Pin DcClass :=
  match ws.getLast? with
  | some w => .driven w.1
  | none => p

/-- `PTR` after the one-byte frames of a byte trace begun at `p`: 1 if a data frame was among them, left
alone by command frames (rules R34, R121, R122). -/
def ptrAfter (ws : List WireByte) (p : Nat) : Nat := if ws.any (fun w => decide (w.1 = .data)) then 1 else p

/-- What the frames of a byte trace leave when every byte went out: the events, the lines, `PTR` and
the draws taken. -/
def State.framesSent (s : State) (ws : List WireByte) : State :=
  { s.drawnBy ws.length with
    trace := s.trace ++ framesOf ws, cs := csAfter ws s.cs, dc := dcAfter ws s.dc, ptr := ptrAfter ws s.ptr }

/-- What the frames of a byte trace leave when its byte number `n`, of class `d`, fails: the frames
before it, its own frame cut, and `PTR`, cleared at acceptance, at the failure (rules R35, R214). -/
def State.framesCut (s : State) (ws : List WireByte) (n : Nat) (d : DcClass) : State :=
  { s.drawnBy (n + 1) with
    trace := s.trace ++ framesOf (ws.take n) ++ cutFrameOf d, dc := .driven d,
    ptr := if d = .data then 0 else ptrAfter (ws.take n) 0 }

/-- The bytes of the framebuffer in ascending order (rule R64). -/
def State.fbBytes (s : State) : List Byte := (List.range s.cfg.fbLen).map s.fbByte

/-- A set pixel of a text drawn at `(x, y)` (rule R196): pixel `(col, row)` of the glyph number `k`. -/
def textPixel (f : Font) (text : List Byte) (x y i j : Int) : Prop :=
  ∃ k col row : Nat, ∃ ch, text[k]? = some ch ∧ col < 8 ∧ row < 8 ∧ fontPixel f ch col row = true ∧
    i = x + 8 * k + col ∧ j = y + row

/-- The pixel lies in the `w` by `h` box whose corner is `(x, y)`. -/
abbrev inBox (x y w h i j : Int) : Prop := (x ≤ i ∧ i < x + w) ∧ (y ≤ j ∧ j < y + h)

/-- A pixel `SCALED_TEXT` records (rule R197, step 3): one of the text's bounding box that has the colour
once the text is drawn, because the text sets it or because it had the colour before. -/
abbrev recordedPixel (s : State) (text : List Byte) (x y : Int) (c : Color) (i j : Int) : Prop :=
  inBox x y (8 * text.length) 8 i j ∧ inb s.cfg i j = true ∧
    (textPixel s.cfg.font text x y i j ∨ s.get i j = some c)

/-- A pixel of the square drawn for the recorded pixel `(i, j)` (rule R197, step 5). -/
abbrev inBlock (x y : Int) (scale : Nat) (i j u v : Int) : Prop :=
  inBox (scale * i - (scale - 1) * x) (scale * j - (scale - 1) * y) scale scale u v

/-- Some recorded pixel's square covers the pixel. -/
abbrev inSomeBlock (s : State) (text : List Byte) (x y : Int) (scale : Nat) (c : Color) (u v : Int) : Prop :=
  ∃ i j, recordedPixel s text x y c i j ∧ inBlock x y scale i j u v

/-- The operand registers an operation reads agree (rule R30). -/
def readsSame (op : Byte) (a b : Operands) : Prop :=
  match op.toNat with
  | 0x01 => a.byte = b.byte
  | 0x02 => a.blob = b.blob
  | 0x12 => a.xs = b.xs ∧ a.ys = b.ys ∧ a.xe = b.xe ∧ a.ye = b.ye
  | 0x22 | 0x32 => a.color = b.color
  | 0x20 => a.x = b.x ∧ a.y = b.y ∧ a.color = b.color
  | 0x21 => a.x = b.x ∧ a.y = b.y
  | 0x23 | 0x24 => a.x = b.x ∧ a.y = b.y ∧ a.w = b.w ∧ a.h = b.h ∧ a.color = b.color
  | 0x25 => a.text = b.text ∧ a.x = b.x ∧ a.y = b.y ∧ a.color = b.color
  | 0x26 => a.text = b.text ∧ a.x = b.x ∧ a.y = b.y ∧ a.scale = b.scale ∧ a.color = b.color
  | _ => True

/-- The sixteen host codes (rule R93). -/
def hostCodes : List Byte :=
  [0x01, 0x02, 0x03, 0x10, 0x11, 0x12, 0x20, 0x21, 0x22, 0x23, 0x24, 0x25, 0x26, 0x30, 0x31, 0x32]

/-- The sixteen wire opcodes (rule R96). -/
def wireCodes : List Byte :=
  [0xAF, 0x00, 0x20, 0xA8, 0xD3, 0xD5, 0xD9, 0xDA, 0xDB, 0xA1, 0x15, 0x75, 0x5C, 0x2A, 0x2B, 0x2C]

/-! ### The invariant -/

/-- The constraints of rule R8 on the parameters. -/
structure Config.Valid (c : Config) : Prop where
  width : 1 ≤ c.width ∧ c.width ≤ 256
  height : 1 ≤ c.height ∧ c.height ≤ 256
  bounds : c.winBoundBytes = .one → c.width ≤ 254 ∧ c.height ≤ 255
  hold : 20 ≤ c.tRstHi ∧ 200 ≤ c.tRstLo
  /-- the byte values and order of the INIT table (rule R141); the classes are open -/
  table : c.initTable.map (·.2) = referenceInitTable.map (·.2)

/-- The level of the last event on the reset line. -/
def lastRst : List Event → Pin RstLevel := fun es =>
  es.foldl (fun p e => match e with | .rst l => .driven l | _ => p) .unspecified

/-- The level of the last event on the chip-select line. -/
def lastCs : List Event → Pin CsLevel := fun es =>
  es.foldl (fun p e => match e with | .cs l => .driven l | _ => p) .unspecified

/-- The level of the last event on the data/command line. -/
def lastDc : List Event → Pin DcClass := fun es =>
  es.foldl (fun p e => match e with | .dc d => .driven d | _ => p) .unspecified

/-- The invariant of the machine between two requests. -/
structure Invariant (s : State) : Prop where
  config : Config.Valid s.cfg
  /-- no operation is in progress (rule R37) -/
  notBusy : s.busy = false
  /-- `PHASE = BUSY` exactly when `BUSY = 1` (rule R41) -/
  notRunning : s.phase ≠ .busy
  /-- the framebuffer's canonical form -/
  memory : Memory.wf s.fb
  /-- no byte outside the framebuffer is held (rule R62) -/
  inBuffer : Memory.within s.cfg.fbLen s.fb
  /-- rule R125 -/
  frames : bracketed s.trace
  /-- each line holds the level of its last event (rules R42 to R44) -/
  rstLine : s.rst = lastRst s.trace
  csLine : s.cs = lastCs s.trace
  dcLine : s.dc = lastDc s.trace
  /-- chip-select is inactive whenever a `NEW` has run (rule R43) -/
  released : s.phase ≠ .off → s.cs = .driven .inactive
  /-- `ERRCODE = 0` when `ERR = 0` (rule R39) -/
  noCode : s.err = false → s.errCode = 0
  /-- `RESULT` is the error of `ERRCODE` when `ERR = 1` (rule R211) -/
  code : s.err = true → s.result = .error s.errCode ∧ s.errCode ∈ [0x01, 0x02, 0x03, 0x04, 0x05]
  /-- the ghost records every error (rule R38) -/
  recorded : s.err = true → s.everErr = true
  /-- before the first `NEW` nothing has happened on the wire and no buffer exists (rule R54) -/
  powerOn : s.phase = .off → s.trace = [] ∧ s.fb = [] ∧ s.ctrl = .undefined
  /-- after a failed `NEW` (rule R55) -/
  failedNew : s.phase = .failed → s.err = true ∧ s.ctrl = .undefined
  /-- at most four nesting levels (rule R33) -/
  levels : 1 ≤ s.seq.length ∧ s.seq.length ≤ 4

end Sys2Proof.Machine
end

