-- ==== Sys2Proof/Certificates/Slice0/Obligations.lean ====
section
/-! DEFINITION. The statements for the provers, family by family. `Ready` is the spec's condition for a
request (rule R41), `NoTxFails` and `TxFailsAt` are premises on the channel's draws (rule R212). A
final state written as a record update says every field: what is not named is as before. -/

open Sys2Proof Sys2Proof.Machine

/-! ### Encoding -/

/-- A few words of the table, written out in bits from rules R93 and R96. Two clauses rest on the model's
choice: that the table word `0x20`, a code of both spaces, is `SET_PIXEL` (DESIGN CHOICE, log 12), and
that a request names its space, by which the last clause reads the same code as the wire command (DESIGN
CHOICE, log 11). -/
def Obligations.TableWordsDecode : Prop :=
  decodeTableWord 8 0b00000001 = some (.writeCommand 0x00) ∧
  decodeTableWord 8 0b00010010 = some (.setWindow 0 0 0 0) ∧
  decodeTableWord 8 0b00100000 = some (.setPixel 0 0 0x0000) ∧
  decodeTableWord 8 0b00110000 = some .newDriver ∧
  decodeTableWord 8 0b10101111 = some .wDisplayOn ∧
  decodeTableWord 8 0b00101010 = some (.wWinCol 0 0) ∧
  decodeRequest { space := .wire, op := 0b00100000 } = .ok .wMemAddrMode

/-- Decoding the request an instruction encodes to gives the instruction back, every operand at every
value its register holds. -/
def Obligations.DecodeOfEncode : Prop :=
  ∀ i : Instr, i.wellFormed = true → decodeRequest (encode i) = .ok i

/-- What is decoded is well formed and has the space and the code of the request. -/
def Obligations.DecodedIsWellFormed : Prop :=
  ∀ (r : Request) (i : Instr), decodeRequest r = .ok i →
    i.wellFormed = true ∧ i.space = r.space ∧ i.opcode = r.op

/-- The byte trace of a wire command, whatever bytes follow it, decodes to that command and leaves those
bytes (rules R97, R106), under both values of `WIN_BOUND_BYTES`. -/
def Obligations.ByteTraceDecodes : Prop :=
  ∀ (c : Config) (i : Instr) (rest : List WireByte), i.wellFormed = true → i.space = .wire →
    decodeByteTrace c (wireBytes c i ++ rest) = .ok (i, rest)

/-- Rule R30, which the spec marks as derived from its operation rules: an operation reads no register
outside its row. -/
def Obligations.OperationsReadTheirRegisters : Prop :=
  ∀ (op : Byte) (a b : Operands), readsSame op a b → decodeHost op a = decodeHost op b

/-- Rules R96, R100 to R103, R145 to R160: the bytes of the sixteen wire commands. -/
def Obligations.WireCommandBytes : Prop :=
  (∀ c : Config,
    wireBytes c .wDisplayOn = [(.cmd, 0xAF)] ∧
    wireBytes c .wAddrModeSetup = [(.cmd, 0x00), (.data, 0x10)] ∧
    wireBytes c .wMemAddrMode = [(.cmd, 0x20), (.data, 0x00)] ∧
    wireBytes c .wMuxRatio = [(.cmd, 0xA8), (.data, 0x3F)] ∧
    wireBytes c .wDisplayOffset = [(.cmd, 0xD3), (.data, 0x00)] ∧
    wireBytes c .wClockDiv = [(.cmd, 0xD5), (.data, 0x80)] ∧
    wireBytes c .wPrecharge = [(.cmd, 0xD9), (.data, 0x22)] ∧
    wireBytes c .wComPins = [(.cmd, 0xDA), (.data, 0x12)] ∧
    wireBytes c .wVcomh = [(.cmd, 0xDB), (.data, 0x40)] ∧
    wireBytes c .wSegRemap = [(.cmd, 0xA1)] ∧
    wireBytes c .wRamwrFull = [(.cmd, 0x5C)] ∧
    wireBytes c .wRamwrWin = [(.cmd, 0x2C)] ∧
    wireBytes c .wFullCol = [(.cmd, 0x15), (.data, 0x00), (.data, BitVec.ofNat 8 (c.width - 1))] ∧
    wireBytes c .wFullRow = [(.cmd, 0x75), (.data, 0x00), (.data, BitVec.ofNat 8 (c.height - 1))]) ∧
  (∀ (c : Config) (a e : Nat), c.winBoundBytes = .two →
    wireBytes c (.wWinCol a e) =
      [(.cmd, 0x2A), (.data, BitVec.ofNat 8 ((a + 2) / 256)), (.data, BitVec.ofNat 8 (a + 2)),
        (.data, BitVec.ofNat 8 ((e + 2) / 256)), (.data, BitVec.ofNat 8 (e + 2))] ∧
    wireBytes c (.wWinRow a e) =
      [(.cmd, 0x2B), (.data, BitVec.ofNat 8 ((a + 1) / 256)), (.data, BitVec.ofNat 8 (a + 1)),
        (.data, BitVec.ofNat 8 ((e + 1) / 256)), (.data, BitVec.ofNat 8 (e + 1))]) ∧
  (∀ (c : Config) (a e : Nat), c.winBoundBytes = .one →
    wireBytes c (.wWinCol a e) =
      [(.cmd, 0x2A), (.data, BitVec.ofNat 8 (a + 2)), (.data, BitVec.ofNat 8 (e + 2))] ∧
    wireBytes c (.wWinRow a e) =
      [(.cmd, 0x2B), (.data, BitVec.ofNat 8 (a + 1)), (.data, BitVec.ofNat 8 (e + 1))])

/-- The 18 entries of the INIT table, which are the ten steps in order (rule R141). The class of each byte
is the spec's own reading ("18 bytes in 10 steps", its decision D9), not its source's (log 22). -/
def Obligations.InitTableEntries : Prop :=
  State.reset.cfg.initTable =
    [(.cmd, 0xAF), (.cmd, 0x00), (.data, 0x10), (.cmd, 0x20), (.data, 0x00), (.cmd, 0xA8), (.data, 0x3F),
      (.cmd, 0xD3), (.data, 0x00), (.cmd, 0xD5), (.data, 0x80), (.cmd, 0xD9), (.data, 0x22), (.cmd, 0xDA),
      (.data, 0x12), (.cmd, 0xDB), (.data, 0x40), (.cmd, 0xA1)] ∧
  ∀ c : Config, State.reset.cfg.initTable =
    [Instr.wDisplayOn, .wAddrModeSetup, .wMemAddrMode, .wMuxRatio, .wDisplayOffset, .wClockDiv, .wPrecharge,
      .wComPins, .wVcomh, .wSegRemap].flatMap (wireBytes c)

/-- Rule R162: the opcodes of the two addressing paths, and none in common. -/
def Obligations.AddressingPathsShareNoOpcode : Prop :=
  ∀ (c : Config) (xs ys xe ye : Nat),
    (fullWindowBytes c).filterMap (fun w => if w.1 = .cmd then some w.2 else none) = [0x15, 0x75, 0x5C] ∧
    (windowBytes c xs ys xe ye).filterMap (fun w => if w.1 = .cmd then some w.2 else none) =
      [0x2A, 0x2B, 0x2C]

/-! ### The step -/

/-- The next request of the host is loaded into `OP` and the operand registers, and the step is `exec` of
the instruction it decodes to (rules R91, R229). -/
def Obligations.StepRunsTheDecodedInstruction : Prop :=
  ∀ (s : State) (r : Request) (rest : List Request) (i : Instr), s.host = r :: rest →
    decodeRequest r = .ok i → step s = exec i { s with host := rest, op := r.op, args := r.args }

/-- With the host's list exhausted the machine stays as it is (rule R248; DESIGN CHOICE, log 2). -/
def Obligations.ExhaustedHostChangesNothing : Prop :=
  ∀ s : State, s.host = [] → step s = .next s

/-- Rule R217: an unknown code is turned away in every phase; `OP` and the operand registers are the
host's to write with the request. -/
def Obligations.UnknownCodeIsTurnedAway : Prop :=
  ∀ (s : State) (r : Request) (rest : List Request), s.host = r :: rest → r.space = .host →
    r.op ∉ hostCodes → s.busy = false →
    step s = .next { s with
      host := rest, op := r.op, args := r.args, err := true, errCode := 0x04, result := .error 0x04,
      everErr := true }

/-- An unknown code of the wire space is turned away as rule R217 says of a host code. That it is, and that
a request can name the wire space at all, are the model's (DEDUCED, log 13; DESIGN CHOICE, log 11). -/
def Obligations.UnknownWireCodeIsTurnedAway : Prop :=
  ∀ (s : State) (r : Request) (rest : List Request), s.host = r :: rest → r.space = .wire →
    r.op ∉ wireCodes → s.busy = false →
    step s = .next { s with
      host := rest, op := r.op, args := r.args, err := true, errCode := 0x04, result := .error 0x04,
      everErr := true }

/-- Rule R218: before construction and after a failed one every instruction but `NEW` is turned away. -/
def Obligations.UnconstructedTurnsAwayAllButNew : Prop :=
  ∀ (i : Instr) (s : State), i ≠ .newDriver → s.busy = false → (s.phase = .off ∨ s.phase = .failed) →
    exec i s = .next (s.turnedAway 0x05)

/-- A request while `BUSY = 1` has no move (rule R229, U10; log 3): every instruction stops. -/
def Obligations.BusyRequestStops : Prop :=
  ∀ (i : Instr) (s : State), s.busy = true → exec i s = .fault .requestWhileBusy

/-- Rule R31: no operation writes an operand register, `OP`, the host's list or the configuration. -/
def Obligations.OperandRegistersAreLeft : Prop :=
  ∀ (i : Instr) (s t : State), exec i s = .next t →
    t.args = s.args ∧ t.op = s.op ∧ t.host = s.host ∧ t.cfg = s.cfg

/-- Rule R267: every operation ends, with `BUSY = 0`, from every state that is not busy. -/
def Obligations.EveryOperationEnds : Prop :=
  ∀ (i : Instr) (s : State), s.busy = false → ∃ t, exec i s = .next t ∧ t.busy = false

/-! ### Reset and the invariant -/

/-- Rule R54: power-on, where no driver and so no buffer exists, and what a successful `NEW` request leaves
in any phase, with the INIT table of rule R141; with a table that has no data entry `PTR` is 0. The
spec marks the rows `PTR` and `DC` as derived. `FB` empty at power-on is the model's form of a buffer
that does not exist (log 18). -/
def Obligations.PowerOnAndNewValues : Prop :=
  (State.reset.phase = .off ∧ State.reset.busy = false ∧ State.reset.err = false ∧
    State.reset.errCode = 0 ∧ State.reset.seq = [0] ∧ State.reset.ptr = 0 ∧
    State.reset.rst = .unspecified ∧ State.reset.cs = .unspecified ∧ State.reset.dc = .unspecified ∧
    State.reset.trace = [] ∧ State.reset.ctrl = .undefined ∧ State.reset.fb = []) ∧
  (∀ (s : State) (rest : List Request) (a : Operands),
    s.host = { space := .host, op := 0x30, args := a } :: rest → s.busy = false →
    s.cfg.initTable = State.reset.cfg.initTable → NoTxFails s 18 →
    ∃ t, step s = .next t ∧ t.phase = .idle ∧ t.busy = false ∧ t.err = false ∧ t.errCode = 0 ∧
      t.seq = [0] ∧ t.ptr = 1 ∧ t.op = 0x30 ∧ t.result = .ok ∧ t.rst = .driven .high ∧
      t.cs = .driven .inactive ∧ t.dc = .driven .cmd ∧ t.ctrl = .configured ∧ t.cfg = s.cfg ∧
      (∀ a, t.fbByte a = Config.freeByte (s.fbGen + 1) a) ∧
      t.trace = s.trace ++ resetPulseOf s.cfg ++
        [(.cmd, 0xAF), (.cmd, 0x00), (.data, 0x10), (.cmd, 0x20), (.data, 0x00), (.cmd, 0xA8), (.data, 0x3F),
          (.cmd, 0xD3), (.data, 0x00), (.cmd, 0xD5), (.data, 0x80), (.cmd, 0xD9), (.data, 0x22),
          (.cmd, 0xDA), (.data, 0x12), (.cmd, 0xDB), (.data, 0x40), (.cmd, 0xA1)].flatMap frameOf) ∧
  ∀ s : State, s.busy = false → (∀ w ∈ s.cfg.initTable, w.1 = .cmd) → NoTxFails s s.cfg.initTable.length →
    ∃ t, exec .newDriver s = .next t ∧ t.ptr = 0

/-- The invariant holds at power-on. -/
def Obligations.InvariantAtReset : Prop := Invariant State.reset

/-- Every step keeps the invariant. -/
def Obligations.StepKeepsInvariant : Prop :=
  ∀ s t : State, Invariant s → step s = .next t → Invariant t

/-- Rule R49: no step changes the configuration. -/
def Obligations.StepKeepsConfiguration : Prop :=
  ∀ s t : State, step s = .next t → t.cfg = s.cfg

/-- Rule R47: the trace is append-only. -/
def Obligations.TraceIsAppendOnly : Prop :=
  ∀ s t : State, step s = .next t → ∃ es, t.trace = s.trace ++ es

/-- Rule R125, which the spec marks as derived: every step appends whole frames, with resets and waits
between them. -/
def Obligations.StepKeepsTraceBracketed : Prop :=
  ∀ s t : State, bracketed s.trace → step s = .next t → bracketed t.trace

/-! ### Nothing reads the trace, the ghost or the flags -/

/-- Rule R47: nothing in the engine reads `TRACE`: other events before it change nothing but
themselves. -/
def Obligations.TraceIsNeverRead : Prop :=
  ∀ (i : Instr) (s : State) (es : List Event),
    exec i { s with trace := es ++ s.trace } =
      match exec i s with
      | .next t => .next { t with trace := es ++ t.trace }
      | .fault f => .fault f
      | .refused r => .refused r

/-- Rules R46, R249: the engine never reads `CTRL`: another value of it changes nothing but `CTRL`. -/
def Obligations.ControllerContextIsNeverRead : Prop :=
  ∀ (i : Instr) (s t : State) (c : Ctrl), exec i s = .next t →
    ∃ c', exec i { s with ctrl := c } = .next { t with ctrl := c' }

/-- Rule R40: no operation reads `ERR` or `ERRCODE`: what an instruction does, the flags it leaves
included, does not depend on them. -/
def Obligations.FlagsAreNeverRead : Prop :=
  ∀ (i : Instr) (s : State) (e : Bool) (k : Byte), exec i { s with err := e, errCode := k } = exec i s

/-! ### Transport failures and the ghost controller context -/

/-- Rule R214: an operation that ends with code 1 has run up to its failing byte, has closed the frame
and has changed nothing after it; one that does not has no failed byte. Only `FILL_SCREEN` and `NEW`
have written the framebuffer by then. -/
def Obligations.TransportFailureAborts : Prop :=
  ∀ (i : Instr) (s t : State), exec i s = .next t →
    (t.errCode = 0x01 →
      (∃ es, t.trace = s.trace ++ es ++ [.txFail, .cs .inactive] ∧ Event.txFail ∉ es) ∧
      t.err = true ∧ t.result = .error 0x01 ∧ t.ctrl = .undefined ∧ t.busy = false ∧
      t.cs = .driven .inactive ∧ t.phase = (if i = .newDriver then .failed else .idle) ∧
      ((∀ c, i ≠ .fillScreen c) → i ≠ .newDriver → t.fb = s.fb ∧ t.fbGen = s.fbGen)) ∧
    (t.errCode ≠ 0x01 → ∃ es, t.trace = s.trace ++ es ∧ Event.txFail ∉ es)

/-- The transition table of rule R250, row by row; the rows of the wire commands are the model's (log
11). -/
def Obligations.ControllerContextTable : Prop :=
  ∀ (i : Instr) (s t : State), exec i s = .next t →
    (t.errCode = 0x01 → t.ctrl = .undefined) ∧
    (t.errCode ∈ [0x02, 0x03, 0x05] → t.ctrl = s.ctrl) ∧
    (t.err = false →
      let opened := if s.ctrl = .configured ∨ s.ctrl = .ramOpen then Ctrl.ramOpen else .undefined
      match i with
      | .newDriver => t.ctrl = .configured
      | .pulseReset => t.ctrl = .reset
      | .initController => t.ctrl = if s.ctrl = .reset then .configured else .undefined
      | .setFullWindow | .flush | .fillScreen _ => t.ctrl = opened
      | .setWindow xs ys xe ye =>
        t.ctrl = if xs ≤ xe ∧ xe < s.cfg.width ∧ ys ≤ ye ∧ ye < s.cfg.height then opened else .undefined
      | .writeCommand b => t.ctrl = if b = 0x5C ∨ b = 0x2C then opened else .undefined
      | .writeData _ => t.ctrl = if s.ctrl = .ramOpen then .ramOpen else .undefined
      | .setPixel _ _ _ | .getPixel _ _ | .fill _ | .fillRect _ _ _ _ _ | .rect _ _ _ _ _
      | .drawText _ _ _ _ | .scaledText _ _ _ _ _ => t.ctrl = s.ctrl
      | .wRamwrFull | .wRamwrWin => t.ctrl = opened
      | .wDisplayOn | .wAddrModeSetup | .wMemAddrMode | .wMuxRatio | .wDisplayOffset | .wClockDiv
      | .wPrecharge | .wComPins | .wVcomh | .wSegRemap | .wFullCol | .wFullRow | .wWinCol _ _
      | .wWinRow _ _ => t.ctrl = .undefined)

/-- Rule R251 (a) and (b): the only ways into each state of the ghost and out of `UNDEFINED`. -/
def Obligations.OnlyWaysBetweenControllerStates : Prop :=
  ∀ (i : Instr) (s t : State), exec i s = .next t → t.ctrl ≠ s.ctrl →
    (t.ctrl = .reset → i = .pulseReset) ∧
    (t.ctrl = .configured → i = .newDriver ∨ (i = .initController ∧ s.ctrl = .reset)) ∧
    (t.ctrl = .ramOpen → s.ctrl = .configured) ∧
    (s.ctrl = .undefined → i = .pulseReset ∨ i = .newDriver)

/-! ### Bus transport -/

/-- Rule R121: `WRITE_COMMAND b`. Its micro-steps do not touch `PTR`; that `PTR` is 0 afterwards is the
acceptance's doing (rule R35), as the model reads the two rules together (DEDUCED, log 21). -/
def Obligations.WriteCommandSendsOneByte : Prop :=
  (∀ a, decodeRequest { space := .host, op := 0x01, args := a } = .ok (.writeCommand a.byte)) ∧
  ∀ (s : State) (b : Byte), Ready s →
    (s.drawAt 0 = true →
      exec (.writeCommand b) s = .next { (s.finished .ok).drawnBy 1 with
        trace := s.trace ++ [.cs .active, .dc .cmd, .tx b, .cs .inactive], cs := .driven .inactive,
        dc := .driven .cmd,
        ctrl := if (b = 0x5C ∨ b = 0x2C) ∧ (s.ctrl = .configured ∨ s.ctrl = .ramOpen) then .ramOpen
          else .undefined }) ∧
    (s.drawAt 0 = false →
      exec (.writeCommand b) s = .next { (s.transportFailed .idle).drawnBy 1 with
        trace := s.trace ++ [.cs .active, .dc .cmd, .txFail, .cs .inactive], dc := .driven .cmd,
        seq := [2], ptr := 0 })

/-- Rule R122: `WRITE_DATA`. -/
def Obligations.WriteDataSendsTheBlob : Prop :=
  (∀ a, decodeRequest { space := .host, op := 0x02, args := a } = .ok (.writeData a.blob)) ∧
  ∀ (s : State) (blob : List Byte), Ready s →
    (NoTxFails s blob.length →
      exec (.writeData blob) s = .next { (s.finished .ok).drawnBy blob.length with
        trace := s.trace ++ dataFrameOf blob, cs := .driven .inactive, dc := .driven .data,
        ptr := blob.length, ctrl := if s.ctrl = .ramOpen then .ramOpen else .undefined }) ∧
    (∀ n, n < blob.length → TxFailsAt s n →
      exec (.writeData blob) s = .next { (s.transportFailed .idle).drawnBy (n + 1) with
        trace := s.trace ++ cutDataFrameOf (blob.take n), dc := .driven .data, seq := [2], ptr := n })

/-- Rule R123: `PULSE_RESET`, for every value of the three holds. Its micro-steps do not write `PTR`; that
`PTR` is 0 afterwards is the acceptance's doing (rule R35), as the model reads the two rules together
(DEDUCED, log 21). -/
def Obligations.PulseResetPulses : Prop :=
  (∀ a, decodeRequest { space := .host, op := 0x03, args := a } = .ok .pulseReset) ∧
  ∀ s : State, Ready s →
    exec .pulseReset s = .next { s.finished .ok with
      trace := s.trace ++ [.rst .high, .wait s.cfg.tRstHi, .rst .low, .wait s.cfg.tRstLo, .rst .high] ++
        (if s.cfg.tRstPost = 0 then [] else [.wait s.cfg.tRstPost]),
      rst := .driven .high, ctrl := .reset }

/-! ### Controller protocol -/

/-- Rule R142: `INITIALIZE` sends the INIT table in index order, with the table of rule R141 its eighteen
frames; a failure at entry `n` stops it there. -/
def Obligations.InitializeSendsTheTable : Prop :=
  (∀ a, decodeRequest { space := .host, op := 0x10, args := a } = .ok .initController) ∧
  ∀ s : State, Ready s →
    (NoTxFails s s.cfg.initTable.length →
      exec .initController s = .next { (s.finished .ok).framesSent s.cfg.initTable with
        ctrl := if s.ctrl = .reset then .configured else .undefined }) ∧
    (∀ n w, s.cfg.initTable[n]? = some w → TxFailsAt s n →
      exec .initController s = .next { (s.transportFailed .idle).framesCut s.cfg.initTable n w.1 with
        seq := [2, n] }) ∧
    (s.cfg.initTable = State.reset.cfg.initTable → NoTxFails s 18 →
      ∃ t, exec .initController s = .next t ∧ t.cs = .driven .inactive ∧ t.dc = .driven .cmd ∧ t.fb = s.fb ∧
        t.trace = s.trace ++
          [(.cmd, 0xAF), (.cmd, 0x00), (.data, 0x10), (.cmd, 0x20), (.data, 0x00), (.cmd, 0xA8), (.data, 0x3F),
            (.cmd, 0xD3), (.data, 0x00), (.cmd, 0xD5), (.data, 0x80), (.cmd, 0xD9), (.data, 0x22),
            (.cmd, 0xDA), (.data, 0x12), (.cmd, 0xDB), (.data, 0x40), (.cmd, 0xA1)].flatMap frameOf)

/-- Rule R143: `SET_FULL_WINDOW` sends its seven frames. -/
def Obligations.SetFullWindowSendsSevenFrames : Prop :=
  (∀ a, decodeRequest { space := .host, op := 0x11, args := a } = .ok .setFullWindow) ∧
  ∀ (s : State) (bytes : List WireByte), Ready s →
    bytes = [(.cmd, 0x15), (.data, 0x00), (.data, BitVec.ofNat 8 (s.cfg.width - 1)), (.cmd, 0x75),
      (.data, 0x00), (.data, BitVec.ofNat 8 (s.cfg.height - 1)), (.cmd, 0x5C)] →
    (NoTxFails s 7 →
      exec .setFullWindow s = .next { (s.finished .ok).framesSent bytes with
        ctrl := if s.ctrl = .configured ∨ s.ctrl = .ramOpen then .ramOpen else .undefined }) ∧
    (∀ n w, bytes[n]? = some w → TxFailsAt s n →
      exec .setFullWindow s = .next { (s.transportFailed .idle).framesCut bytes n w.1 with seq := [2, n] })

/-- Rule R144: `SET_WINDOW` sends eleven frames with two bytes per bound and seven with one, whatever its
operands are; the precondition decides the ghost `CTRL` alone. -/
def Obligations.SetWindowSendsItsFrames : Prop :=
  (∀ a, decodeRequest { space := .host, op := 0x12, args := a } =
    .ok (.setWindow a.xs.toNat a.ys.toNat a.xe.toNat a.ye.toNat)) ∧
  ∀ (s : State) (xs ys xe ye : Nat) (bytes : List WireByte), Ready s →
    bytes = (match s.cfg.winBoundBytes with
      | .two =>
        [(.cmd, 0x2A), (.data, BitVec.ofNat 8 ((xs + 2) / 256)), (.data, BitVec.ofNat 8 (xs + 2)),
          (.data, BitVec.ofNat 8 ((xe + 2) / 256)), (.data, BitVec.ofNat 8 (xe + 2)),
          (.cmd, 0x2B), (.data, BitVec.ofNat 8 ((ys + 1) / 256)), (.data, BitVec.ofNat 8 (ys + 1)),
          (.data, BitVec.ofNat 8 ((ye + 1) / 256)), (.data, BitVec.ofNat 8 (ye + 1)), (.cmd, 0x2C)]
      | .one =>
        [(.cmd, 0x2A), (.data, BitVec.ofNat 8 (xs + 2)), (.data, BitVec.ofNat 8 (xe + 2)),
          (.cmd, 0x2B), (.data, BitVec.ofNat 8 (ys + 1)), (.data, BitVec.ofNat 8 (ye + 1)), (.cmd, 0x2C)]) →
    (NoTxFails s bytes.length →
      exec (.setWindow xs ys xe ye) s = .next { (s.finished .ok).framesSent bytes with
        ctrl := if (xs ≤ xe ∧ xe < s.cfg.width ∧ ys ≤ ye ∧ ye < s.cfg.height) ∧
          (s.ctrl = .configured ∨ s.ctrl = .ramOpen) then .ramOpen else .undefined }) ∧
    (∀ n w, bytes[n]? = some w → TxFailsAt s n →
      exec (.setWindow xs ys xe ye) s = .next { (s.transportFailed .idle).framesCut bytes n w.1 with
        seq := [2, n] })

/-! ### Wire commands -/

/-- Rules R145 to R160: the engine does nothing on emitting a wire command beyond appending its frames.
That a wire command can be run as an operation of its own, and its effect on the ghost `CTRL` then,
are the model's (DEDUCED, log 11). -/
def Obligations.WireCommandEmitsItsFrames : Prop :=
  ∀ (i : Instr) (s : State), i.space = .wire → Ready s →
    (NoTxFails s (wireBytes s.cfg i).length →
      exec i s = .next { (s.finished .ok).framesSent (wireBytes s.cfg i) with
        ctrl := if (i = .wRamwrFull ∨ i = .wRamwrWin) ∧ (s.ctrl = .configured ∨ s.ctrl = .ramOpen)
          then .ramOpen else .undefined }) ∧
    (∀ n w, (wireBytes s.cfg i)[n]? = some w → TxFailsAt s n →
      exec i s = .next { (s.transportFailed .idle).framesCut (wireBytes s.cfg i) n w.1 with seq := [2, n] })

/-! ### Framebuffer -/

/-- Rules R77, R199: no framebuffer operation emits a pin event, takes a draw of the channel or touches
the ghost. -/
def Obligations.DrawingTouchesNoWire : Prop :=
  ∀ (i : Instr) (s t : State), i.space = .host → 0x20 ≤ i.opcode.toNat → i.opcode.toNat ≤ 0x26 →
    exec i s = .next t →
    t.trace = s.trace ∧ t.rst = s.rst ∧ t.cs = s.cs ∧ t.dc = s.dc ∧ t.ctrl = s.ctrl ∧
      t.draws = s.draws ∧ t.drawCount = s.drawCount ∧ t.fbGen = s.fbGen

/-- Rules R63, R191: `SET_PIXEL` writes the two bytes of the pixel when it lies inside and nothing
otherwise. Rule R191 lists `BUSY`, `ERR` and `RESULT` beside them; that `PTR` and `SEQ` are 0 afterwards is
the acceptance's doing (rule R35), as the model reads the two rules together (DEDUCED, log 21). -/
def Obligations.SetPixelWritesTwoBytes : Prop :=
  (∀ a, decodeRequest { space := .host, op := 0x20, args := a } = .ok (.setPixel a.x.toInt a.y.toInt a.color)) ∧
  ∀ (s : State) (x y : Int) (c : Color), Ready s → (s.cfg.oobPolicy = .clip ∨ inb s.cfg x y = true) →
    ∃ t, exec (.setPixel x y c) s = .next t ∧ t = { s.finished .ok with fb := t.fb } ∧
      ∀ a, t.fbByte a =
        if inb s.cfg x y = true ∧ a = ((y * s.cfg.width + x) * 2).toNat then
          (if s.cfg.fbByteOrder = .little then lo8 c else hi8 c)
        else if inb s.cfg x y = true ∧ a = ((y * s.cfg.width + x) * 2).toNat + 1 then
          (if s.cfg.fbByteOrder = .little then hi8 c else lo8 c)
        else s.fbByte a

/-- Rule R192: `GET_PIXEL` hands back the pixel's two bytes, or `none` outside the buffer, and changes no
memory. The rule lists `RESULT`, `BUSY` and `ERR` only; that `PTR` and `SEQ` are 0 afterwards is the
acceptance's doing (rule R35), as the model reads the two rules together (DEDUCED, log 21); line 3 of PRG4
in spec/95_test_vectors.md bears it out. -/
def Obligations.GetPixelReadsTwoBytes : Prop :=
  (∀ a, decodeRequest { space := .host, op := 0x21, args := a } = .ok (.getPixel a.x.toInt a.y.toInt)) ∧
  ∀ (s : State) (x y : Int), Ready s → (s.cfg.oobPolicy = .clip ∨ inb s.cfg x y = true) →
    exec (.getPixel x y) s = .next (s.finished
      (if 0 ≤ x ∧ x < s.cfg.width ∧ 0 ≤ y ∧ y < s.cfg.height then
        .pixel (if s.cfg.fbByteOrder = .little
          then s.fbByte (((y * s.cfg.width + x) * 2).toNat + 1) ++ s.fbByte ((y * s.cfg.width + x) * 2).toNat
          else s.fbByte ((y * s.cfg.width + x) * 2).toNat ++ s.fbByte (((y * s.cfg.width + x) * 2).toNat + 1))
      else .noPixel))

/-- Rules R193, R198 (b): `FILL` writes every byte of the buffer, and every pixel then reads as the
colour. -/
def Obligations.FillWritesEveryPixel : Prop :=
  (∀ a, decodeRequest { space := .host, op := 0x22, args := a } = .ok (.fill a.color)) ∧
  ∀ (s : State) (c : Color), Ready s →
    ∃ t, exec (.fill c) s = .next t ∧ t = { s.finished .ok with fb := t.fb } ∧
      (∀ p, p < s.cfg.width * s.cfg.height →
        t.fbByte (2 * p) = (if s.cfg.fbByteOrder = .little then lo8 c else hi8 c) ∧
        t.fbByte (2 * p + 1) = (if s.cfg.fbByteOrder = .little then hi8 c else lo8 c)) ∧
      ∀ x y, inb s.cfg x y = true → t.get x y = some c

/-- Rule R194: `FILL_RECT` colours the pixels of the box that lie inside and no other byte. -/
def Obligations.FillRectColoursTheBox : Prop :=
  (∀ a, decodeRequest { space := .host, op := 0x23, args := a } =
    .ok (.fillRect a.x.toInt a.y.toInt a.w.toInt a.h.toInt a.color)) ∧
  ∀ (s : State) (x y w h : Int) (c : Color), Ready s →
    (s.cfg.oobPolicy = .clip ∨ ∀ i j, inBox x y w h i j → inb s.cfg i j = true) →
    ∃ t, exec (.fillRect x y w h c) s = .next t ∧ t = { s.finished .ok with fb := t.fb } ∧
      (∀ i j, inb s.cfg i j = true → inBox x y w h i j → t.get i j = some c) ∧
      ∀ a, (∀ i j, inb s.cfg i j = true → inBox x y w h i j → a ≠ off s.cfg i j ∧ a ≠ off s.cfg i j + 1) →
        t.fbByte a = s.fbByte a

/-- Rule R195: `RECT` colours the pixels on the four edges of the box that lie inside and no other
byte. -/
def Obligations.RectColoursTheOutline : Prop :=
  (∀ a, decodeRequest { space := .host, op := 0x24, args := a } =
    .ok (.rect a.x.toInt a.y.toInt a.w.toInt a.h.toInt a.color)) ∧
  ∀ (s : State) (x y w h : Int) (c : Color), Ready s →
    (s.cfg.oobPolicy = .clip ∨ ∀ i j, inBox x y w h i j → inb s.cfg i j = true) →
    ∃ t, exec (.rect x y w h c) s = .next t ∧ t = { s.finished .ok with fb := t.fb } ∧
      (∀ i j, inb s.cfg i j = true → inBox x y w h i j →
        (i = x ∨ i = x + w - 1 ∨ j = y ∨ j = y + h - 1) → t.get i j = some c) ∧
      ∀ a, (∀ i j, inb s.cfg i j = true → inBox x y w h i j →
          (i = x ∨ i = x + w - 1 ∨ j = y ∨ j = y + h - 1) → a ≠ off s.cfg i j ∧ a ≠ off s.cfg i j + 1) →
        t.fbByte a = s.fbByte a

/-- Rule R196: `DRAW_TEXT` colours the set pixels of its glyphs that lie inside and no other byte, for
every font. -/
def Obligations.DrawTextColoursTheGlyphs : Prop :=
  (∀ a, decodeRequest { space := .host, op := 0x25, args := a } =
    .ok (.drawText a.text a.x.toInt a.y.toInt a.color)) ∧
  ∀ (s : State) (text : List Byte) (x y : Int) (c : Color), Ready s →
    (s.cfg.oobPolicy = .clip ∨ ∀ i j, textPixel s.cfg.font text x y i j → inb s.cfg i j = true) →
    ∃ t, exec (.drawText text x y c) s = .next t ∧ t = { s.finished .ok with fb := t.fb } ∧
      (∀ i j, inb s.cfg i j = true → textPixel s.cfg.font text x y i j → t.get i j = some c) ∧
      ∀ a, (∀ i j, inb s.cfg i j = true → textPixel s.cfg.font text x y i j →
          a ≠ off s.cfg i j ∧ a ≠ off s.cfg i j + 1) →
        t.fbByte a = s.fbByte a

/-- Rule R197: `SCALED_TEXT`, with the snapshot `background` of the anchor: the squares of the recorded
pixels have the colour, the other set pixels of the text the background, and no other byte changes; with
the anchor outside the buffer or scale 0 it is turned away. -/
def Obligations.ScaledTextMagnifiesTheRecordedPixels : Prop :=
  (∀ a, decodeRequest { space := .host, op := 0x26, args := a } =
    .ok (.scaledText a.text a.x.toInt a.y.toInt a.scale.toNat a.color)) ∧
  (∀ (s : State) (text : List Byte) (x y : Int) (scale : Nat) (c : Color), Ready s →
    (inb s.cfg x y = false ∨ scale = 0) →
    exec (.scaledText text x y scale c) s = .next (s.turnedAway 0x03)) ∧
  ∀ (s : State) (text : List Byte) (x y : Int) (scale : Nat) (c background : Color), Ready s →
    s.get x y = some background → 1 ≤ scale →
    (s.cfg.oobPolicy = .clip ∨
      (∀ i j, textPixel s.cfg.font text x y i j → inb s.cfg i j = true) ∧
      (∀ i j, inBox x y (8 * text.length) 8 i j → inb s.cfg i j = true) ∧
      (∀ u v, inSomeBlock s text x y scale c u v → inb s.cfg u v = true)) →
    ∃ t, exec (.scaledText text x y scale c) s = .next t ∧ t = { s.finished .ok with fb := t.fb } ∧
      (∀ u v, inb s.cfg u v = true → inSomeBlock s text x y scale c u v → t.get u v = some c) ∧
      (∀ u v, inb s.cfg u v = true → ¬ inSomeBlock s text x y scale c u v →
        textPixel s.cfg.font text x y u v → t.get u v = some background) ∧
      ∀ a, (∀ u v, inb s.cfg u v = true →
          (inSomeBlock s text x y scale c u v ∨ textPixel s.cfg.font text x y u v) →
          a ≠ off s.cfg u v ∧ a ≠ off s.cfg u v + 1) →
        t.fbByte a = s.fbByte a

/-- Rule R216: an anchor outside the buffer or a scale of 0 is turned away at acceptance. -/
def Obligations.ScaledTextBadOperand : Prop :=
  ∀ (s : State) (text : List Byte) (x y : Int) (scale : Nat) (c : Color), Ready s →
    (inb s.cfg x y = false ∨ scale = 0) →
    exec (.scaledText text x y scale c) s = .next (s.turnedAway 0x03)

/-- Rule R215 under `OOB_POLICY = reject`, in the form log 14 gives it (DEDUCED): a drawing operation
whose pixels all lie inside does what it does under `clip`, any other ends with code 2 and no byte
written. -/
def Obligations.RejectPolicyIsAllOrNothing : Prop :=
  ∀ (i : Instr) (s t : State), i.space = .host → 0x20 ≤ i.opcode.toNat → i.opcode.toNat ≤ 0x26 →
    Ready s → s.cfg.oobPolicy = .reject → exec i s = .next t →
    t = { s.turnedAway 0x02 with seq := [0], ptr := 0 } ∨
      exec i { s with cfg := { s.cfg with oobPolicy := .clip } } =
        .next { t with cfg := { t.cfg with oobPolicy := .clip } }

/-- Which operations `reject` ends. Rule R215 does not develop the policy: every clause is the model's
reading of it (DEDUCED, log 14), that `RECT` is judged by its whole box and `SCALED_TEXT` by its set
pixels, its bounding box and its squares included. -/
def Obligations.RejectPolicyEndsOutsideDrawing : Prop :=
  ∀ (s : State) (x y w h : Int) (c : Color) (text : List Byte), Ready s → s.cfg.oobPolicy = .reject →
    (inb s.cfg x y = false →
      exec (.setPixel x y c) s = .next { s.turnedAway 0x02 with seq := [0], ptr := 0 } ∧
      exec (.getPixel x y) s = .next { s.turnedAway 0x02 with seq := [0], ptr := 0 }) ∧
    (∀ i j, inBox x y w h i j → inb s.cfg i j = false →
      exec (.fillRect x y w h c) s = .next { s.turnedAway 0x02 with seq := [0], ptr := 0 } ∧
      exec (.rect x y w h c) s = .next { s.turnedAway 0x02 with seq := [0], ptr := 0 }) ∧
    (∀ i j, textPixel s.cfg.font text x y i j → inb s.cfg i j = false →
      exec (.drawText text x y c) s = .next { s.turnedAway 0x02 with seq := [0], ptr := 0 }) ∧
    (∀ (scale : Nat) (i j : Int), inb s.cfg x y = true → 1 ≤ scale → inb s.cfg i j = false →
      (textPixel s.cfg.font text x y i j ∨ inBox x y (8 * text.length) 8 i j ∨
        inSomeBlock s text x y scale c i j) →
      exec (.scaledText text x y scale c) s = .next { s.turnedAway 0x02 with seq := [0], ptr := 0 })

/-- Rule R198 (a): a pixel set is the pixel read, and every other pixel is unchanged. -/
def Obligations.PixelSetIsPixelRead : Prop :=
  ∀ (s : State) (x y : Int) (c : Color), Ready s → inb s.cfg x y = true →
    ∃ t u, exec (.setPixel x y c) s = .next t ∧ exec (.getPixel x y) t = .next u ∧ u.result = .pixel c ∧
      ∀ i j, (i, j) ≠ (x, y) → t.get i j = s.get i j

/-- Rules R195, R198 (c): after `FILL_RECT`, a `RECT` with the same operands changes no byte. -/
def Obligations.RectAfterFillRectChangesNothing : Prop :=
  ∀ (s : State) (x y w h : Int) (c : Color), Ready s → s.cfg.oobPolicy = .clip →
    ∃ t u, exec (.fillRect x y w h c) s = .next t ∧ exec (.rect x y w h c) t = .next u ∧
      ∀ a, u.fbByte a = t.fbByte a

/-- Rule R198 (d): at scale 1 `SCALED_TEXT` leaves the same pixels as `DRAW_TEXT`. -/
def Obligations.ScaleOneIsDrawText : Prop :=
  ∀ (s : State) (text : List Byte) (x y : Int) (c : Color), Ready s → s.cfg.oobPolicy = .clip →
    inb s.cfg x y = true →
    ∃ t u, exec (.scaledText text x y 1 c) s = .next t ∧ exec (.drawText text x y c) s = .next u ∧
      ∀ i j, t.get i j = u.get i j

/-- Rule R198 (e): when no pixel of the bounding box had the colour before, the pixels that have it
afterwards are exactly the magnified glyph pixels, anchored at `(x, y)`, and those outside the box that
had it before. -/
def Obligations.MagnificationIsExact : Prop :=
  ∀ (s : State) (text : List Byte) (x y : Int) (scale : Nat) (c : Color), Ready s →
    s.cfg.oobPolicy = .clip → inb s.cfg x y = true → 1 ≤ scale →
    (∀ i j, inBox x y (8 * text.length) 8 i j → s.get i j ≠ some c) →
    ∃ t, exec (.scaledText text x y scale c) s = .next t ∧
      ∀ u v, inb s.cfg u v = true →
        (t.get u v = some c ↔
          (x ≤ u ∧ y ≤ v ∧
            textPixel s.cfg.font text x y (x + (u - x) / scale) (y + (v - y) / scale)) ∨
          s.get u v = some c)

/-! ### Display driver -/

/-- Rule R181: `NEW` draws a fresh buffer, pulses the reset line and sends the INIT table, in every
phase; a failure leaves `PHASE = FAILED` (rule R55). -/
def Obligations.NewResetsAndInitializes : Prop :=
  (∀ a, decodeRequest { space := .host, op := 0x30, args := a } = .ok .newDriver) ∧
  ∀ s : State, s.busy = false →
    (NoTxFails s s.cfg.initTable.length →
      exec .newDriver s = .next
        { ({ s.finished .ok with
              trace := s.trace ++ resetPulseOf s.cfg, rst := .driven .high } : State).framesSent s.cfg.initTable with
          fb := [], fbGen := s.fbGen + 1, ctrl := .configured }) ∧
    (∀ n w, s.cfg.initTable[n]? = some w → TxFailsAt s n →
      exec .newDriver s = .next
        { ({ s.transportFailed .failed with
              trace := s.trace ++ resetPulseOf s.cfg, rst := .driven .high } : State).framesCut s.cfg.initTable n w.1 with
          fb := [], fbGen := s.fbGen + 1, seq := [2, n, 2] })

/-- Rules R77, R182: `FLUSH` sends the full window and then the framebuffer, as it stood, in one
frame. -/
def Obligations.FlushSendsTheFramebuffer : Prop :=
  (∀ a, decodeRequest { space := .host, op := 0x31, args := a } = .ok .flush) ∧
  ∀ (s : State) (bytes : List WireByte), Ready s →
    bytes = [(.cmd, 0x15), (.data, 0x00), (.data, BitVec.ofNat 8 (s.cfg.width - 1)), (.cmd, 0x75),
      (.data, 0x00), (.data, BitVec.ofNat 8 (s.cfg.height - 1)), (.cmd, 0x5C)] →
    (NoTxFails s (7 + s.cfg.fbLen) →
      exec .flush s = .next { (s.finished .ok).drawnBy (7 + s.cfg.fbLen) with
        trace := s.trace ++ framesOf bytes ++ dataFrameOf s.fbBytes, cs := .driven .inactive,
        dc := .driven .data, ptr := s.cfg.fbLen,
        ctrl := if s.ctrl = .configured ∨ s.ctrl = .ramOpen then .ramOpen else .undefined }) ∧
    (∀ n w, bytes[n]? = some w → TxFailsAt s n →
      exec .flush s = .next { (s.transportFailed .idle).framesCut bytes n w.1 with seq := [2, n, 0] }) ∧
    (∀ n, n < s.cfg.fbLen → TxFailsAt s (7 + n) →
      exec .flush s = .next { (s.transportFailed .idle).drawnBy (7 + n + 1) with
        trace := s.trace ++ framesOf bytes ++ cutDataFrameOf (s.fbBytes.take n), dc := .driven .data,
        ptr := n, seq := [2, 1] })

/-- Rule R183: `FILL_SCREEN` fills, then flushes; a failed flush leaves the buffer filled. -/
def Obligations.FillScreenFillsAndFlushes : Prop :=
  (∀ a, decodeRequest { space := .host, op := 0x32, args := a } = .ok (.fillScreen a.color)) ∧
  ∀ (s : State) (c : Color) (bytes : List WireByte) (pixels : List Byte), Ready s →
    bytes = [(.cmd, 0x15), (.data, 0x00), (.data, BitVec.ofNat 8 (s.cfg.width - 1)), (.cmd, 0x75),
      (.data, 0x00), (.data, BitVec.ofNat 8 (s.cfg.height - 1)), (.cmd, 0x5C)] →
    pixels = (List.range (s.cfg.width * s.cfg.height)).flatMap (fun _ =>
      if s.cfg.fbByteOrder = .little then [lo8 c, hi8 c] else [hi8 c, lo8 c]) →
    (NoTxFails s (7 + s.cfg.fbLen) →
      ∃ t, exec (.fillScreen c) s = .next t ∧ t.fbBytes = pixels ∧
        t = { (s.finished .ok).drawnBy (7 + s.cfg.fbLen) with
          fb := t.fb, trace := s.trace ++ framesOf bytes ++ dataFrameOf pixels, cs := .driven .inactive,
          dc := .driven .data, ptr := s.cfg.fbLen,
          ctrl := if s.ctrl = .configured ∨ s.ctrl = .ramOpen then .ramOpen else .undefined }) ∧
    (∀ n w, bytes[n]? = some w → TxFailsAt s n →
      ∃ t, exec (.fillScreen c) s = .next t ∧ t.fbBytes = pixels ∧
        t = { (s.transportFailed .idle).framesCut bytes n w.1 with fb := t.fb, seq := [2, n, 0, 1] }) ∧
    (∀ n, n < s.cfg.fbLen → TxFailsAt s (7 + n) →
      ∃ t, exec (.fillScreen c) s = .next t ∧ t.fbBytes = pixels ∧
        t = { (s.transportFailed .idle).drawnBy (7 + n + 1) with
          fb := t.fb, trace := s.trace ++ framesOf bytes ++ cutDataFrameOf (pixels.take n),
          dc := .driven .data, ptr := n, seq := [2, 1, 1] })

/-- Rule R65: in the byte sequence a flush sends, the pixel `(x, y)` stands as its low byte then its high
byte at positions `off(x, y)` and `off(x, y) + 1`. -/
def Obligations.FlushedPixelBytes : Prop :=
  ∀ (s : State) (x y : Int) (c : Color), s.cfg.fbByteOrder = .little → s.get x y = some c →
    s.fbBytes[((y * s.cfg.width + x) * 2).toNat]? = some (lo8 c) ∧
    s.fbBytes[((y * s.cfg.width + x) * 2).toNat + 1]? = some (hi8 c)
end

