-- ==== Sys2Proof/Laws/Memory.lean ====
section
/-! SUPPORT. The list of cells: reading after writing, and that every write keeps the canonical form. -/

namespace Sys2Proof.Machine

@[simp] theorem cellRead_nil (k : Nat) : cellRead [] k = none := rfl

theorem cellRead_cons (p : Host.Cell) (m : List Host.Cell) (k : Nat) :
    cellRead (p :: m) k = if p.1 = k then some p.2 else cellRead m k := by
  cases p; rfl

theorem cellRead_append (m m' : List Host.Cell) (k : Nat) :
    cellRead (m ++ m') k = (cellRead m k).or (cellRead m' k) := by
  induction m with
  | nil => simp
  | cons p m ih => by_cases h : p.1 = k <;> simp [cellRead_cons, h, ih]

/-- Reading after writing: the byte written at its address, every other address as before. -/
theorem cellRead_cellWrite (m : List Host.Cell) (a : Nat) (b : Byte) (k : Nat) :
    cellRead (cellWrite m a b) k = if k = a then some b else cellRead m k := by
  induction m with
  | nil => simp [cellWrite, cellRead_cons, eq_comm]
  | cons p m ih =>
    obtain ⟨j, v⟩ := p
    simp only [cellWrite]
    split
    · simp [cellRead_cons, eq_comm]
    · split
      · subst_vars; by_cases h : j = k <;> simp [cellRead_cons, h, eq_comm]
        intro h'; exact absurd h'.symm h
      · simp only [cellRead_cons, ih]
        by_cases h : j = k <;> by_cases h' : k = a <;> simp_all

/-- A write adds at most its own address. -/
theorem mem_cellWrite {m : List Host.Cell} {a : Nat} {b : Byte} {p : Host.Cell}
    (h : p ∈ cellWrite m a b) : p = (a, b) ∨ p ∈ m := by
  induction m with
  | nil => simpa [cellWrite] using h
  | cons q m ih =>
    obtain ⟨j, v⟩ := q
    simp only [cellWrite] at h
    split at h
    · simp_all
    · split at h
      · rcases List.mem_cons.mp h with h | h <;> simp_all
      · rcases List.mem_cons.mp h with h | h
        · simp_all
        · rcases ih h with h | h <;> simp_all

theorem cellWrite_wf {m : List Host.Cell} (a : Nat) (b : Byte) (h : Memory.wf m) :
    Memory.wf (cellWrite m a b) := by
  induction m with
  | nil => simp [cellWrite, Memory.wf]
  | cons q m ih =>
    obtain ⟨j, v⟩ := q
    obtain ⟨h1, h2⟩ := List.pairwise_cons.mp h
    simp only [cellWrite]
    split
    · refine List.pairwise_cons.mpr ⟨?_, h⟩
      intro p hp
      rcases List.mem_cons.mp hp with rfl | hp
      · assumption
      · exact Nat.lt_trans ‹_› (h1 p hp)
    · split
      · subst_vars; exact List.pairwise_cons.mpr ⟨h1, h2⟩
      · refine List.pairwise_cons.mpr ⟨?_, ih h2⟩
        intro p hp
        rcases mem_cellWrite hp with rfl | hp
        · simp only; omega
        · exact h1 p hp

theorem cellWrite_within {n : Nat} {m : List Host.Cell} {a : Nat} (b : Byte) (ha : a < n)
    (h : Memory.within n m) : Memory.within n (cellWrite m a b) := by
  intro p hp
  rcases mem_cellWrite hp with rfl | hp
  · exact ha
  · exact h p hp

theorem filledCells_succ (n : Nat) (b0 b1 : Byte) :
    filledCells (n + 1) b0 b1 = filledCells n b0 b1 ++ [(2 * n, b0), (2 * n + 1, b1)] := by
  simp [filledCells, List.range_succ]

theorem filledCells_within (n : Nat) (b0 b1 : Byte) : Memory.within (2 * n) (filledCells n b0 b1) := by
  intro p hp
  simp only [filledCells, List.mem_flatMap, List.mem_range] at hp
  obtain ⟨i, hi, hp⟩ := hp
  rcases List.mem_cons.mp hp with rfl | hp
  · simp only; omega
  · rw [List.mem_singleton] at hp; subst hp; simp only; omega

theorem filledCells_wf (n : Nat) (b0 b1 : Byte) : Memory.wf (filledCells n b0 b1) := by
  induction n with
  | zero => simp [filledCells, Memory.wf]
  | succ n ih =>
    rw [filledCells_succ]
    refine List.pairwise_append.mpr ⟨ih, by simp, ?_⟩
    intro p hp q hq
    have h := filledCells_within n b0 b1 p hp
    rcases List.mem_cons.mp hq with rfl | hq
    · simpa using h
    · rw [List.mem_singleton] at hq; subst hq; simp only; omega

/-- A filled buffer reads as the first byte at even and the second at odd addresses. -/
theorem cellRead_filledCells (n : Nat) (b0 b1 : Byte) (a : Nat) :
    cellRead (filledCells n b0 b1) a =
      if a < 2 * n then some (if a % 2 = 0 then b0 else b1) else none := by
  induction n with
  | zero => simp [filledCells]
  | succ n ih =>
    rw [filledCells_succ, cellRead_append, ih]
    by_cases h : a < 2 * n
    · simp [h, show a < 2 * (n + 1) by omega]
    · simp only [h, if_false, Option.none_or, cellRead_cons, cellRead_nil]
      by_cases h0 : 2 * n = a
      · subst h0; simp
      · by_cases h1 : 2 * n + 1 = a
        · subst h1; simp [show 2 * n + 1 < 2 * (n + 1) by omega, show (2 * n + 1) % 2 = 1 by omega]
        · simp [h0, h1, show ¬ a < 2 * (n + 1) by omega]

end Sys2Proof.Machine
end

