-- ==== Sys2Proof/Laws/State.lean ====
section
/-! SUPPORT. One lemma per field and per update of the state: what each shared update writes, and that it
leaves every other field. -/

namespace Sys2Proof.Machine

variable (s : State)

@[simp] theorem State.fillAll_cfg (c : Color) : (s.fillAll c).cfg = s.cfg := rfl
@[simp] theorem State.fillAll_host (c : Color) : (s.fillAll c).host = s.host := rfl
@[simp] theorem State.fillAll_draws (c : Color) : (s.fillAll c).draws = s.draws := rfl
@[simp] theorem State.fillAll_drawCount (c : Color) : (s.fillAll c).drawCount = s.drawCount := rfl
@[simp] theorem State.fillAll_op (c : Color) : (s.fillAll c).op = s.op := rfl
@[simp] theorem State.fillAll_args (c : Color) : (s.fillAll c).args = s.args := rfl
@[simp] theorem State.fillAll_result (c : Color) : (s.fillAll c).result = s.result := rfl
@[simp] theorem State.fillAll_seq (c : Color) : (s.fillAll c).seq = s.seq := rfl
@[simp] theorem State.fillAll_ptr (c : Color) : (s.fillAll c).ptr = s.ptr := rfl
@[simp] theorem State.fillAll_busy (c : Color) : (s.fillAll c).busy = s.busy := rfl
@[simp] theorem State.fillAll_err (c : Color) : (s.fillAll c).err = s.err := rfl
@[simp] theorem State.fillAll_errCode (c : Color) : (s.fillAll c).errCode = s.errCode := rfl
@[simp] theorem State.fillAll_everErr (c : Color) : (s.fillAll c).everErr = s.everErr := rfl
@[simp] theorem State.fillAll_phase (c : Color) : (s.fillAll c).phase = s.phase := rfl
@[simp] theorem State.fillAll_rst (c : Color) : (s.fillAll c).rst = s.rst := rfl
@[simp] theorem State.fillAll_cs (c : Color) : (s.fillAll c).cs = s.cs := rfl
@[simp] theorem State.fillAll_dc (c : Color) : (s.fillAll c).dc = s.dc := rfl
@[simp] theorem State.fillAll_fb (c : Color) : (s.fillAll c).fb = filledCells (s.cfg.width * s.cfg.height) (colorBytes s.cfg.fbByteOrder c).1 (colorBytes s.cfg.fbByteOrder c).2 := rfl
@[simp] theorem State.fillAll_fbGen (c : Color) : (s.fillAll c).fbGen = s.fbGen := rfl
@[simp] theorem State.fillAll_trace (c : Color) : (s.fillAll c).trace = s.trace := rfl
@[simp] theorem State.fillAll_ctrl (c : Color) : (s.fillAll c).ctrl = s.ctrl := rfl

@[simp] theorem State.freshFb_cfg : s.freshFb.cfg = s.cfg := rfl
@[simp] theorem State.freshFb_host : s.freshFb.host = s.host := rfl
@[simp] theorem State.freshFb_draws : s.freshFb.draws = s.draws := rfl
@[simp] theorem State.freshFb_drawCount : s.freshFb.drawCount = s.drawCount := rfl
@[simp] theorem State.freshFb_op : s.freshFb.op = s.op := rfl
@[simp] theorem State.freshFb_args : s.freshFb.args = s.args := rfl
@[simp] theorem State.freshFb_result : s.freshFb.result = s.result := rfl
@[simp] theorem State.freshFb_seq : s.freshFb.seq = s.seq := rfl
@[simp] theorem State.freshFb_ptr : s.freshFb.ptr = s.ptr := rfl
@[simp] theorem State.freshFb_busy : s.freshFb.busy = s.busy := rfl
@[simp] theorem State.freshFb_err : s.freshFb.err = s.err := rfl
@[simp] theorem State.freshFb_errCode : s.freshFb.errCode = s.errCode := rfl
@[simp] theorem State.freshFb_everErr : s.freshFb.everErr = s.everErr := rfl
@[simp] theorem State.freshFb_phase : s.freshFb.phase = s.phase := rfl
@[simp] theorem State.freshFb_rst : s.freshFb.rst = s.rst := rfl
@[simp] theorem State.freshFb_cs : s.freshFb.cs = s.cs := rfl
@[simp] theorem State.freshFb_dc : s.freshFb.dc = s.dc := rfl
@[simp] theorem State.freshFb_fb : s.freshFb.fb = [] := rfl
@[simp] theorem State.freshFb_fbGen : s.freshFb.fbGen = s.fbGen + 1 := rfl
@[simp] theorem State.freshFb_trace : s.freshFb.trace = s.trace := rfl
@[simp] theorem State.freshFb_ctrl : s.freshFb.ctrl = s.ctrl := rfl

@[simp] theorem State.emitRst_cfg (l : RstLevel) : (s.emitRst l).cfg = s.cfg := rfl
@[simp] theorem State.emitRst_host (l : RstLevel) : (s.emitRst l).host = s.host := rfl
@[simp] theorem State.emitRst_draws (l : RstLevel) : (s.emitRst l).draws = s.draws := rfl
@[simp] theorem State.emitRst_drawCount (l : RstLevel) : (s.emitRst l).drawCount = s.drawCount := rfl
@[simp] theorem State.emitRst_op (l : RstLevel) : (s.emitRst l).op = s.op := rfl
@[simp] theorem State.emitRst_args (l : RstLevel) : (s.emitRst l).args = s.args := rfl
@[simp] theorem State.emitRst_result (l : RstLevel) : (s.emitRst l).result = s.result := rfl
@[simp] theorem State.emitRst_seq (l : RstLevel) : (s.emitRst l).seq = s.seq := rfl
@[simp] theorem State.emitRst_ptr (l : RstLevel) : (s.emitRst l).ptr = s.ptr := rfl
@[simp] theorem State.emitRst_busy (l : RstLevel) : (s.emitRst l).busy = s.busy := rfl
@[simp] theorem State.emitRst_err (l : RstLevel) : (s.emitRst l).err = s.err := rfl
@[simp] theorem State.emitRst_errCode (l : RstLevel) : (s.emitRst l).errCode = s.errCode := rfl
@[simp] theorem State.emitRst_everErr (l : RstLevel) : (s.emitRst l).everErr = s.everErr := rfl
@[simp] theorem State.emitRst_phase (l : RstLevel) : (s.emitRst l).phase = s.phase := rfl
@[simp] theorem State.emitRst_rst (l : RstLevel) : (s.emitRst l).rst = .driven l := rfl
@[simp] theorem State.emitRst_cs (l : RstLevel) : (s.emitRst l).cs = s.cs := rfl
@[simp] theorem State.emitRst_dc (l : RstLevel) : (s.emitRst l).dc = s.dc := rfl
@[simp] theorem State.emitRst_fb (l : RstLevel) : (s.emitRst l).fb = s.fb := rfl
@[simp] theorem State.emitRst_fbGen (l : RstLevel) : (s.emitRst l).fbGen = s.fbGen := rfl
@[simp] theorem State.emitRst_trace (l : RstLevel) : (s.emitRst l).trace = s.trace ++ [.rst l] := rfl
@[simp] theorem State.emitRst_ctrl (l : RstLevel) : (s.emitRst l).ctrl = s.ctrl := rfl

@[simp] theorem State.emitCs_cfg (l : CsLevel) : (s.emitCs l).cfg = s.cfg := rfl
@[simp] theorem State.emitCs_host (l : CsLevel) : (s.emitCs l).host = s.host := rfl
@[simp] theorem State.emitCs_draws (l : CsLevel) : (s.emitCs l).draws = s.draws := rfl
@[simp] theorem State.emitCs_drawCount (l : CsLevel) : (s.emitCs l).drawCount = s.drawCount := rfl
@[simp] theorem State.emitCs_op (l : CsLevel) : (s.emitCs l).op = s.op := rfl
@[simp] theorem State.emitCs_args (l : CsLevel) : (s.emitCs l).args = s.args := rfl
@[simp] theorem State.emitCs_result (l : CsLevel) : (s.emitCs l).result = s.result := rfl
@[simp] theorem State.emitCs_seq (l : CsLevel) : (s.emitCs l).seq = s.seq := rfl
@[simp] theorem State.emitCs_ptr (l : CsLevel) : (s.emitCs l).ptr = s.ptr := rfl
@[simp] theorem State.emitCs_busy (l : CsLevel) : (s.emitCs l).busy = s.busy := rfl
@[simp] theorem State.emitCs_err (l : CsLevel) : (s.emitCs l).err = s.err := rfl
@[simp] theorem State.emitCs_errCode (l : CsLevel) : (s.emitCs l).errCode = s.errCode := rfl
@[simp] theorem State.emitCs_everErr (l : CsLevel) : (s.emitCs l).everErr = s.everErr := rfl
@[simp] theorem State.emitCs_phase (l : CsLevel) : (s.emitCs l).phase = s.phase := rfl
@[simp] theorem State.emitCs_rst (l : CsLevel) : (s.emitCs l).rst = s.rst := rfl
@[simp] theorem State.emitCs_cs (l : CsLevel) : (s.emitCs l).cs = .driven l := rfl
@[simp] theorem State.emitCs_dc (l : CsLevel) : (s.emitCs l).dc = s.dc := rfl
@[simp] theorem State.emitCs_fb (l : CsLevel) : (s.emitCs l).fb = s.fb := rfl
@[simp] theorem State.emitCs_fbGen (l : CsLevel) : (s.emitCs l).fbGen = s.fbGen := rfl
@[simp] theorem State.emitCs_trace (l : CsLevel) : (s.emitCs l).trace = s.trace ++ [.cs l] := rfl
@[simp] theorem State.emitCs_ctrl (l : CsLevel) : (s.emitCs l).ctrl = s.ctrl := rfl

@[simp] theorem State.emitDc_cfg (d : DcClass) : (s.emitDc d).cfg = s.cfg := rfl
@[simp] theorem State.emitDc_host (d : DcClass) : (s.emitDc d).host = s.host := rfl
@[simp] theorem State.emitDc_draws (d : DcClass) : (s.emitDc d).draws = s.draws := rfl
@[simp] theorem State.emitDc_drawCount (d : DcClass) : (s.emitDc d).drawCount = s.drawCount := rfl
@[simp] theorem State.emitDc_op (d : DcClass) : (s.emitDc d).op = s.op := rfl
@[simp] theorem State.emitDc_args (d : DcClass) : (s.emitDc d).args = s.args := rfl
@[simp] theorem State.emitDc_result (d : DcClass) : (s.emitDc d).result = s.result := rfl
@[simp] theorem State.emitDc_seq (d : DcClass) : (s.emitDc d).seq = s.seq := rfl
@[simp] theorem State.emitDc_ptr (d : DcClass) : (s.emitDc d).ptr = s.ptr := rfl
@[simp] theorem State.emitDc_busy (d : DcClass) : (s.emitDc d).busy = s.busy := rfl
@[simp] theorem State.emitDc_err (d : DcClass) : (s.emitDc d).err = s.err := rfl
@[simp] theorem State.emitDc_errCode (d : DcClass) : (s.emitDc d).errCode = s.errCode := rfl
@[simp] theorem State.emitDc_everErr (d : DcClass) : (s.emitDc d).everErr = s.everErr := rfl
@[simp] theorem State.emitDc_phase (d : DcClass) : (s.emitDc d).phase = s.phase := rfl
@[simp] theorem State.emitDc_rst (d : DcClass) : (s.emitDc d).rst = s.rst := rfl
@[simp] theorem State.emitDc_cs (d : DcClass) : (s.emitDc d).cs = s.cs := rfl
@[simp] theorem State.emitDc_dc (d : DcClass) : (s.emitDc d).dc = .driven d := rfl
@[simp] theorem State.emitDc_fb (d : DcClass) : (s.emitDc d).fb = s.fb := rfl
@[simp] theorem State.emitDc_fbGen (d : DcClass) : (s.emitDc d).fbGen = s.fbGen := rfl
@[simp] theorem State.emitDc_trace (d : DcClass) : (s.emitDc d).trace = s.trace ++ [.dc d] := rfl
@[simp] theorem State.emitDc_ctrl (d : DcClass) : (s.emitDc d).ctrl = s.ctrl := rfl

@[simp] theorem State.wait_cfg (t : Nat) : (s.wait t).cfg = s.cfg := rfl
@[simp] theorem State.wait_host (t : Nat) : (s.wait t).host = s.host := rfl
@[simp] theorem State.wait_draws (t : Nat) : (s.wait t).draws = s.draws := rfl
@[simp] theorem State.wait_drawCount (t : Nat) : (s.wait t).drawCount = s.drawCount := rfl
@[simp] theorem State.wait_op (t : Nat) : (s.wait t).op = s.op := rfl
@[simp] theorem State.wait_args (t : Nat) : (s.wait t).args = s.args := rfl
@[simp] theorem State.wait_result (t : Nat) : (s.wait t).result = s.result := rfl
@[simp] theorem State.wait_seq (t : Nat) : (s.wait t).seq = s.seq := rfl
@[simp] theorem State.wait_ptr (t : Nat) : (s.wait t).ptr = s.ptr := rfl
@[simp] theorem State.wait_busy (t : Nat) : (s.wait t).busy = s.busy := rfl
@[simp] theorem State.wait_err (t : Nat) : (s.wait t).err = s.err := rfl
@[simp] theorem State.wait_errCode (t : Nat) : (s.wait t).errCode = s.errCode := rfl
@[simp] theorem State.wait_everErr (t : Nat) : (s.wait t).everErr = s.everErr := rfl
@[simp] theorem State.wait_phase (t : Nat) : (s.wait t).phase = s.phase := rfl
@[simp] theorem State.wait_rst (t : Nat) : (s.wait t).rst = s.rst := rfl
@[simp] theorem State.wait_cs (t : Nat) : (s.wait t).cs = s.cs := rfl
@[simp] theorem State.wait_dc (t : Nat) : (s.wait t).dc = s.dc := rfl
@[simp] theorem State.wait_fb (t : Nat) : (s.wait t).fb = s.fb := rfl
@[simp] theorem State.wait_fbGen (t : Nat) : (s.wait t).fbGen = s.fbGen := rfl
@[simp] theorem State.wait_trace (t : Nat) : (s.wait t).trace = s.trace ++ [.wait t] := rfl
@[simp] theorem State.wait_ctrl (t : Nat) : (s.wait t).ctrl = s.ctrl := rfl

@[simp] theorem State.nextStep_cfg : s.nextStep.cfg = s.cfg := rfl
@[simp] theorem State.nextStep_host : s.nextStep.host = s.host := rfl
@[simp] theorem State.nextStep_draws : s.nextStep.draws = s.draws := rfl
@[simp] theorem State.nextStep_drawCount : s.nextStep.drawCount = s.drawCount := rfl
@[simp] theorem State.nextStep_op : s.nextStep.op = s.op := rfl
@[simp] theorem State.nextStep_args : s.nextStep.args = s.args := rfl
@[simp] theorem State.nextStep_result : s.nextStep.result = s.result := rfl
@[simp] theorem State.nextStep_ptr : s.nextStep.ptr = s.ptr := rfl
@[simp] theorem State.nextStep_busy : s.nextStep.busy = s.busy := rfl
@[simp] theorem State.nextStep_err : s.nextStep.err = s.err := rfl
@[simp] theorem State.nextStep_errCode : s.nextStep.errCode = s.errCode := rfl
@[simp] theorem State.nextStep_everErr : s.nextStep.everErr = s.everErr := rfl
@[simp] theorem State.nextStep_phase : s.nextStep.phase = s.phase := rfl
@[simp] theorem State.nextStep_rst : s.nextStep.rst = s.rst := rfl
@[simp] theorem State.nextStep_cs : s.nextStep.cs = s.cs := rfl
@[simp] theorem State.nextStep_dc : s.nextStep.dc = s.dc := rfl
@[simp] theorem State.nextStep_fb : s.nextStep.fb = s.fb := rfl
@[simp] theorem State.nextStep_fbGen : s.nextStep.fbGen = s.fbGen := rfl
@[simp] theorem State.nextStep_trace : s.nextStep.trace = s.trace := rfl
@[simp] theorem State.nextStep_ctrl : s.nextStep.ctrl = s.ctrl := rfl

@[simp] theorem State.enter_cfg : s.enter.cfg = s.cfg := rfl
@[simp] theorem State.enter_host : s.enter.host = s.host := rfl
@[simp] theorem State.enter_draws : s.enter.draws = s.draws := rfl
@[simp] theorem State.enter_drawCount : s.enter.drawCount = s.drawCount := rfl
@[simp] theorem State.enter_op : s.enter.op = s.op := rfl
@[simp] theorem State.enter_args : s.enter.args = s.args := rfl
@[simp] theorem State.enter_result : s.enter.result = s.result := rfl
@[simp] theorem State.enter_seq : s.enter.seq = 0 :: s.seq := rfl
@[simp] theorem State.enter_ptr : s.enter.ptr = s.ptr := rfl
@[simp] theorem State.enter_busy : s.enter.busy = s.busy := rfl
@[simp] theorem State.enter_err : s.enter.err = s.err := rfl
@[simp] theorem State.enter_errCode : s.enter.errCode = s.errCode := rfl
@[simp] theorem State.enter_everErr : s.enter.everErr = s.everErr := rfl
@[simp] theorem State.enter_phase : s.enter.phase = s.phase := rfl
@[simp] theorem State.enter_rst : s.enter.rst = s.rst := rfl
@[simp] theorem State.enter_cs : s.enter.cs = s.cs := rfl
@[simp] theorem State.enter_dc : s.enter.dc = s.dc := rfl
@[simp] theorem State.enter_fb : s.enter.fb = s.fb := rfl
@[simp] theorem State.enter_fbGen : s.enter.fbGen = s.fbGen := rfl
@[simp] theorem State.enter_trace : s.enter.trace = s.trace := rfl
@[simp] theorem State.enter_ctrl : s.enter.ctrl = s.ctrl := rfl

@[simp] theorem State.leave_cfg : s.leave.cfg = s.cfg := rfl
@[simp] theorem State.leave_host : s.leave.host = s.host := rfl
@[simp] theorem State.leave_draws : s.leave.draws = s.draws := rfl
@[simp] theorem State.leave_drawCount : s.leave.drawCount = s.drawCount := rfl
@[simp] theorem State.leave_op : s.leave.op = s.op := rfl
@[simp] theorem State.leave_args : s.leave.args = s.args := rfl
@[simp] theorem State.leave_result : s.leave.result = s.result := rfl
@[simp] theorem State.leave_seq : s.leave.seq = s.seq.tail := rfl
@[simp] theorem State.leave_ptr : s.leave.ptr = s.ptr := rfl
@[simp] theorem State.leave_busy : s.leave.busy = s.busy := rfl
@[simp] theorem State.leave_err : s.leave.err = s.err := rfl
@[simp] theorem State.leave_errCode : s.leave.errCode = s.errCode := rfl
@[simp] theorem State.leave_everErr : s.leave.everErr = s.everErr := rfl
@[simp] theorem State.leave_phase : s.leave.phase = s.phase := rfl
@[simp] theorem State.leave_rst : s.leave.rst = s.rst := rfl
@[simp] theorem State.leave_cs : s.leave.cs = s.cs := rfl
@[simp] theorem State.leave_dc : s.leave.dc = s.dc := rfl
@[simp] theorem State.leave_fb : s.leave.fb = s.fb := rfl
@[simp] theorem State.leave_fbGen : s.leave.fbGen = s.fbGen := rfl
@[simp] theorem State.leave_trace : s.leave.trace = s.trace := rfl
@[simp] theorem State.leave_ctrl : s.leave.ctrl = s.ctrl := rfl

@[simp] theorem State.openData_cfg : s.openData.cfg = s.cfg := rfl
@[simp] theorem State.openData_host : s.openData.host = s.host := rfl
@[simp] theorem State.openData_draws : s.openData.draws = s.draws := rfl
@[simp] theorem State.openData_drawCount : s.openData.drawCount = s.drawCount := rfl
@[simp] theorem State.openData_op : s.openData.op = s.op := rfl
@[simp] theorem State.openData_args : s.openData.args = s.args := rfl
@[simp] theorem State.openData_result : s.openData.result = s.result := rfl
@[simp] theorem State.openData_seq : s.openData.seq = s.seq := rfl
@[simp] theorem State.openData_ptr : s.openData.ptr = 0 := rfl
@[simp] theorem State.openData_busy : s.openData.busy = s.busy := rfl
@[simp] theorem State.openData_err : s.openData.err = s.err := rfl
@[simp] theorem State.openData_errCode : s.openData.errCode = s.errCode := rfl
@[simp] theorem State.openData_everErr : s.openData.everErr = s.everErr := rfl
@[simp] theorem State.openData_phase : s.openData.phase = s.phase := rfl
@[simp] theorem State.openData_rst : s.openData.rst = s.rst := rfl
@[simp] theorem State.openData_cs : s.openData.cs = s.cs := rfl
@[simp] theorem State.openData_dc : s.openData.dc = s.dc := rfl
@[simp] theorem State.openData_fb : s.openData.fb = s.fb := rfl
@[simp] theorem State.openData_fbGen : s.openData.fbGen = s.fbGen := rfl
@[simp] theorem State.openData_trace : s.openData.trace = s.trace := rfl
@[simp] theorem State.openData_ctrl : s.openData.ctrl = s.ctrl := rfl

@[simp] theorem State.nextByte_cfg : s.nextByte.cfg = s.cfg := rfl
@[simp] theorem State.nextByte_host : s.nextByte.host = s.host := rfl
@[simp] theorem State.nextByte_draws : s.nextByte.draws = s.draws := rfl
@[simp] theorem State.nextByte_drawCount : s.nextByte.drawCount = s.drawCount := rfl
@[simp] theorem State.nextByte_op : s.nextByte.op = s.op := rfl
@[simp] theorem State.nextByte_args : s.nextByte.args = s.args := rfl
@[simp] theorem State.nextByte_result : s.nextByte.result = s.result := rfl
@[simp] theorem State.nextByte_seq : s.nextByte.seq = s.seq := rfl
@[simp] theorem State.nextByte_ptr : s.nextByte.ptr = s.ptr + 1 := rfl
@[simp] theorem State.nextByte_busy : s.nextByte.busy = s.busy := rfl
@[simp] theorem State.nextByte_err : s.nextByte.err = s.err := rfl
@[simp] theorem State.nextByte_errCode : s.nextByte.errCode = s.errCode := rfl
@[simp] theorem State.nextByte_everErr : s.nextByte.everErr = s.everErr := rfl
@[simp] theorem State.nextByte_phase : s.nextByte.phase = s.phase := rfl
@[simp] theorem State.nextByte_rst : s.nextByte.rst = s.rst := rfl
@[simp] theorem State.nextByte_cs : s.nextByte.cs = s.cs := rfl
@[simp] theorem State.nextByte_dc : s.nextByte.dc = s.dc := rfl
@[simp] theorem State.nextByte_fb : s.nextByte.fb = s.fb := rfl
@[simp] theorem State.nextByte_fbGen : s.nextByte.fbGen = s.fbGen := rfl
@[simp] theorem State.nextByte_trace : s.nextByte.trace = s.trace := rfl
@[simp] theorem State.nextByte_ctrl : s.nextByte.ctrl = s.ctrl := rfl

@[simp] theorem State.drawn_cfg : s.drawn.cfg = s.cfg := rfl
@[simp] theorem State.drawn_host : s.drawn.host = s.host := rfl
@[simp] theorem State.drawn_draws : s.drawn.draws = s.draws.tail := rfl
@[simp] theorem State.drawn_drawCount : s.drawn.drawCount = s.drawCount + 1 := rfl
@[simp] theorem State.drawn_op : s.drawn.op = s.op := rfl
@[simp] theorem State.drawn_args : s.drawn.args = s.args := rfl
@[simp] theorem State.drawn_result : s.drawn.result = s.result := rfl
@[simp] theorem State.drawn_seq : s.drawn.seq = s.seq := rfl
@[simp] theorem State.drawn_ptr : s.drawn.ptr = s.ptr := rfl
@[simp] theorem State.drawn_busy : s.drawn.busy = s.busy := rfl
@[simp] theorem State.drawn_err : s.drawn.err = s.err := rfl
@[simp] theorem State.drawn_errCode : s.drawn.errCode = s.errCode := rfl
@[simp] theorem State.drawn_everErr : s.drawn.everErr = s.everErr := rfl
@[simp] theorem State.drawn_phase : s.drawn.phase = s.phase := rfl
@[simp] theorem State.drawn_rst : s.drawn.rst = s.rst := rfl
@[simp] theorem State.drawn_cs : s.drawn.cs = s.cs := rfl
@[simp] theorem State.drawn_dc : s.drawn.dc = s.dc := rfl
@[simp] theorem State.drawn_fb : s.drawn.fb = s.fb := rfl
@[simp] theorem State.drawn_fbGen : s.drawn.fbGen = s.fbGen := rfl
@[simp] theorem State.drawn_trace : s.drawn.trace = s.trace := rfl
@[simp] theorem State.drawn_ctrl : s.drawn.ctrl = s.ctrl := rfl

@[simp] theorem State.sent_cfg (b : Byte) : (s.sent b).cfg = s.cfg := rfl
@[simp] theorem State.sent_host (b : Byte) : (s.sent b).host = s.host := rfl
@[simp] theorem State.sent_draws (b : Byte) : (s.sent b).draws = s.draws := rfl
@[simp] theorem State.sent_drawCount (b : Byte) : (s.sent b).drawCount = s.drawCount := rfl
@[simp] theorem State.sent_op (b : Byte) : (s.sent b).op = s.op := rfl
@[simp] theorem State.sent_args (b : Byte) : (s.sent b).args = s.args := rfl
@[simp] theorem State.sent_result (b : Byte) : (s.sent b).result = s.result := rfl
@[simp] theorem State.sent_seq (b : Byte) : (s.sent b).seq = s.seq := rfl
@[simp] theorem State.sent_ptr (b : Byte) : (s.sent b).ptr = s.ptr := rfl
@[simp] theorem State.sent_busy (b : Byte) : (s.sent b).busy = s.busy := rfl
@[simp] theorem State.sent_err (b : Byte) : (s.sent b).err = s.err := rfl
@[simp] theorem State.sent_errCode (b : Byte) : (s.sent b).errCode = s.errCode := rfl
@[simp] theorem State.sent_everErr (b : Byte) : (s.sent b).everErr = s.everErr := rfl
@[simp] theorem State.sent_phase (b : Byte) : (s.sent b).phase = s.phase := rfl
@[simp] theorem State.sent_rst (b : Byte) : (s.sent b).rst = s.rst := rfl
@[simp] theorem State.sent_cs (b : Byte) : (s.sent b).cs = s.cs := rfl
@[simp] theorem State.sent_dc (b : Byte) : (s.sent b).dc = s.dc := rfl
@[simp] theorem State.sent_fb (b : Byte) : (s.sent b).fb = s.fb := rfl
@[simp] theorem State.sent_fbGen (b : Byte) : (s.sent b).fbGen = s.fbGen := rfl
@[simp] theorem State.sent_trace (b : Byte) : (s.sent b).trace = s.trace ++ [.tx b] := rfl
@[simp] theorem State.sent_ctrl (b : Byte) : (s.sent b).ctrl = s.ctrl := rfl

@[simp] theorem State.sendFailed_cfg : s.sendFailed.cfg = s.cfg := rfl
@[simp] theorem State.sendFailed_host : s.sendFailed.host = s.host := rfl
@[simp] theorem State.sendFailed_draws : s.sendFailed.draws = s.draws := rfl
@[simp] theorem State.sendFailed_drawCount : s.sendFailed.drawCount = s.drawCount := rfl
@[simp] theorem State.sendFailed_op : s.sendFailed.op = s.op := rfl
@[simp] theorem State.sendFailed_args : s.sendFailed.args = s.args := rfl
@[simp] theorem State.sendFailed_result : s.sendFailed.result = s.result := rfl
@[simp] theorem State.sendFailed_seq : s.sendFailed.seq = s.seq := rfl
@[simp] theorem State.sendFailed_ptr : s.sendFailed.ptr = s.ptr := rfl
@[simp] theorem State.sendFailed_busy : s.sendFailed.busy = s.busy := rfl
@[simp] theorem State.sendFailed_err : s.sendFailed.err = s.err := rfl
@[simp] theorem State.sendFailed_errCode : s.sendFailed.errCode = s.errCode := rfl
@[simp] theorem State.sendFailed_everErr : s.sendFailed.everErr = s.everErr := rfl
@[simp] theorem State.sendFailed_phase : s.sendFailed.phase = s.phase := rfl
@[simp] theorem State.sendFailed_rst : s.sendFailed.rst = s.rst := rfl
@[simp] theorem State.sendFailed_cs : s.sendFailed.cs = s.cs := rfl
@[simp] theorem State.sendFailed_dc : s.sendFailed.dc = s.dc := rfl
@[simp] theorem State.sendFailed_fb : s.sendFailed.fb = s.fb := rfl
@[simp] theorem State.sendFailed_fbGen : s.sendFailed.fbGen = s.fbGen := rfl
@[simp] theorem State.sendFailed_trace : s.sendFailed.trace = s.trace ++ [.txFail] := rfl
@[simp] theorem State.sendFailed_ctrl : s.sendFailed.ctrl = s.ctrl := rfl

@[simp] theorem State.raise_cfg (e : Exc) : (s.raise e).cfg = s.cfg := rfl
@[simp] theorem State.raise_host (e : Exc) : (s.raise e).host = s.host := rfl
@[simp] theorem State.raise_draws (e : Exc) : (s.raise e).draws = s.draws := rfl
@[simp] theorem State.raise_drawCount (e : Exc) : (s.raise e).drawCount = s.drawCount := rfl
@[simp] theorem State.raise_op (e : Exc) : (s.raise e).op = s.op := rfl
@[simp] theorem State.raise_args (e : Exc) : (s.raise e).args = s.args := rfl
@[simp] theorem State.raise_result (e : Exc) : (s.raise e).result = .error (excCode e) := rfl
@[simp] theorem State.raise_seq (e : Exc) : (s.raise e).seq = s.seq := rfl
@[simp] theorem State.raise_ptr (e : Exc) : (s.raise e).ptr = s.ptr := rfl
@[simp] theorem State.raise_busy (e : Exc) : (s.raise e).busy = s.busy := rfl
@[simp] theorem State.raise_err (e : Exc) : (s.raise e).err = true := rfl
@[simp] theorem State.raise_errCode (e : Exc) : (s.raise e).errCode = excCode e := rfl
@[simp] theorem State.raise_everErr (e : Exc) : (s.raise e).everErr = true := rfl
@[simp] theorem State.raise_phase (e : Exc) : (s.raise e).phase = s.phase := rfl
@[simp] theorem State.raise_rst (e : Exc) : (s.raise e).rst = s.rst := rfl
@[simp] theorem State.raise_cs (e : Exc) : (s.raise e).cs = s.cs := rfl
@[simp] theorem State.raise_dc (e : Exc) : (s.raise e).dc = s.dc := rfl
@[simp] theorem State.raise_fb (e : Exc) : (s.raise e).fb = s.fb := rfl
@[simp] theorem State.raise_fbGen (e : Exc) : (s.raise e).fbGen = s.fbGen := rfl
@[simp] theorem State.raise_trace (e : Exc) : (s.raise e).trace = s.trace := rfl
@[simp] theorem State.raise_ctrl (e : Exc) : (s.raise e).ctrl = s.ctrl := rfl

@[simp] theorem State.abort_cfg (p : Phase) : (s.abort p).cfg = s.cfg := rfl
@[simp] theorem State.abort_host (p : Phase) : (s.abort p).host = s.host := rfl
@[simp] theorem State.abort_draws (p : Phase) : (s.abort p).draws = s.draws := rfl
@[simp] theorem State.abort_drawCount (p : Phase) : (s.abort p).drawCount = s.drawCount := rfl
@[simp] theorem State.abort_op (p : Phase) : (s.abort p).op = s.op := rfl
@[simp] theorem State.abort_args (p : Phase) : (s.abort p).args = s.args := rfl
@[simp] theorem State.abort_result (p : Phase) : (s.abort p).result = .error 0x01 := rfl
@[simp] theorem State.abort_seq (p : Phase) : (s.abort p).seq = s.seq := rfl
@[simp] theorem State.abort_ptr (p : Phase) : (s.abort p).ptr = s.ptr := rfl
@[simp] theorem State.abort_busy (p : Phase) : (s.abort p).busy = false := rfl
@[simp] theorem State.abort_err (p : Phase) : (s.abort p).err = true := rfl
@[simp] theorem State.abort_errCode (p : Phase) : (s.abort p).errCode = 0x01 := rfl
@[simp] theorem State.abort_everErr (p : Phase) : (s.abort p).everErr = true := rfl
@[simp] theorem State.abort_phase (p : Phase) : (s.abort p).phase = p := rfl
@[simp] theorem State.abort_rst (p : Phase) : (s.abort p).rst = s.rst := rfl
@[simp] theorem State.abort_cs (p : Phase) : (s.abort p).cs = .driven .inactive := rfl
@[simp] theorem State.abort_dc (p : Phase) : (s.abort p).dc = s.dc := rfl
@[simp] theorem State.abort_fb (p : Phase) : (s.abort p).fb = s.fb := rfl
@[simp] theorem State.abort_fbGen (p : Phase) : (s.abort p).fbGen = s.fbGen := rfl
@[simp] theorem State.abort_trace (p : Phase) : (s.abort p).trace = s.trace ++ [.txFail] ++ [.cs .inactive] := rfl
@[simp] theorem State.abort_ctrl (p : Phase) : (s.abort p).ctrl = .undefined := rfl

@[simp] theorem State.boundsViolation_cfg : s.boundsViolation.cfg = s.cfg := rfl
@[simp] theorem State.boundsViolation_host : s.boundsViolation.host = s.host := rfl
@[simp] theorem State.boundsViolation_draws : s.boundsViolation.draws = s.draws := rfl
@[simp] theorem State.boundsViolation_drawCount : s.boundsViolation.drawCount = s.drawCount := rfl
@[simp] theorem State.boundsViolation_op : s.boundsViolation.op = s.op := rfl
@[simp] theorem State.boundsViolation_args : s.boundsViolation.args = s.args := rfl
@[simp] theorem State.boundsViolation_result : s.boundsViolation.result = .error 0x02 := rfl
@[simp] theorem State.boundsViolation_seq : s.boundsViolation.seq = s.seq := rfl
@[simp] theorem State.boundsViolation_ptr : s.boundsViolation.ptr = s.ptr := rfl
@[simp] theorem State.boundsViolation_busy : s.boundsViolation.busy = false := rfl
@[simp] theorem State.boundsViolation_err : s.boundsViolation.err = true := rfl
@[simp] theorem State.boundsViolation_errCode : s.boundsViolation.errCode = 0x02 := rfl
@[simp] theorem State.boundsViolation_everErr : s.boundsViolation.everErr = true := rfl
@[simp] theorem State.boundsViolation_phase : s.boundsViolation.phase = .idle := rfl
@[simp] theorem State.boundsViolation_rst : s.boundsViolation.rst = s.rst := rfl
@[simp] theorem State.boundsViolation_cs : s.boundsViolation.cs = s.cs := rfl
@[simp] theorem State.boundsViolation_dc : s.boundsViolation.dc = s.dc := rfl
@[simp] theorem State.boundsViolation_fb : s.boundsViolation.fb = s.fb := rfl
@[simp] theorem State.boundsViolation_fbGen : s.boundsViolation.fbGen = s.fbGen := rfl
@[simp] theorem State.boundsViolation_trace : s.boundsViolation.trace = s.trace := rfl
@[simp] theorem State.boundsViolation_ctrl : s.boundsViolation.ctrl = s.ctrl := rfl

@[simp] theorem State.accept_cfg : s.accept.cfg = s.cfg := rfl
@[simp] theorem State.accept_host : s.accept.host = s.host := rfl
@[simp] theorem State.accept_draws : s.accept.draws = s.draws := rfl
@[simp] theorem State.accept_drawCount : s.accept.drawCount = s.drawCount := rfl
@[simp] theorem State.accept_op : s.accept.op = s.op := rfl
@[simp] theorem State.accept_args : s.accept.args = s.args := rfl
@[simp] theorem State.accept_result : s.accept.result = s.result := rfl
@[simp] theorem State.accept_seq : s.accept.seq = [0] := rfl
@[simp] theorem State.accept_ptr : s.accept.ptr = 0 := rfl
@[simp] theorem State.accept_busy : s.accept.busy = true := rfl
@[simp] theorem State.accept_err : s.accept.err = s.err := rfl
@[simp] theorem State.accept_errCode : s.accept.errCode = s.errCode := rfl
@[simp] theorem State.accept_everErr : s.accept.everErr = s.everErr := rfl
@[simp] theorem State.accept_phase : s.accept.phase = .busy := rfl
@[simp] theorem State.accept_rst : s.accept.rst = s.rst := rfl
@[simp] theorem State.accept_cs : s.accept.cs = s.cs := rfl
@[simp] theorem State.accept_dc : s.accept.dc = s.dc := rfl
@[simp] theorem State.accept_fb : s.accept.fb = s.fb := rfl
@[simp] theorem State.accept_fbGen : s.accept.fbGen = s.fbGen := rfl
@[simp] theorem State.accept_trace : s.accept.trace = s.trace := rfl
@[simp] theorem State.accept_ctrl : s.accept.ctrl = s.ctrl := rfl

@[simp] theorem State.done_cfg (r : Result) : (s.done r).cfg = s.cfg := rfl
@[simp] theorem State.done_host (r : Result) : (s.done r).host = s.host := rfl
@[simp] theorem State.done_draws (r : Result) : (s.done r).draws = s.draws := rfl
@[simp] theorem State.done_drawCount (r : Result) : (s.done r).drawCount = s.drawCount := rfl
@[simp] theorem State.done_op (r : Result) : (s.done r).op = s.op := rfl
@[simp] theorem State.done_args (r : Result) : (s.done r).args = s.args := rfl
@[simp] theorem State.done_result (r : Result) : (s.done r).result = r := rfl
@[simp] theorem State.done_seq (r : Result) : (s.done r).seq = [0] := rfl
@[simp] theorem State.done_ptr (r : Result) : (s.done r).ptr = s.ptr := rfl
@[simp] theorem State.done_busy (r : Result) : (s.done r).busy = false := rfl
@[simp] theorem State.done_err (r : Result) : (s.done r).err = false := rfl
@[simp] theorem State.done_errCode (r : Result) : (s.done r).errCode = 0 := rfl
@[simp] theorem State.done_everErr (r : Result) : (s.done r).everErr = s.everErr := rfl
@[simp] theorem State.done_phase (r : Result) : (s.done r).phase = .idle := rfl
@[simp] theorem State.done_rst (r : Result) : (s.done r).rst = s.rst := rfl
@[simp] theorem State.done_cs (r : Result) : (s.done r).cs = s.cs := rfl
@[simp] theorem State.done_dc (r : Result) : (s.done r).dc = s.dc := rfl
@[simp] theorem State.done_fb (r : Result) : (s.done r).fb = s.fb := rfl
@[simp] theorem State.done_fbGen (r : Result) : (s.done r).fbGen = s.fbGen := rfl
@[simp] theorem State.done_trace (r : Result) : (s.done r).trace = s.trace := rfl
@[simp] theorem State.done_ctrl (r : Result) : (s.done r).ctrl = s.ctrl := rfl

@[simp] theorem State.setCtrl_cfg (c : Ctrl) : (s.setCtrl c).cfg = s.cfg := rfl
@[simp] theorem State.setCtrl_host (c : Ctrl) : (s.setCtrl c).host = s.host := rfl
@[simp] theorem State.setCtrl_draws (c : Ctrl) : (s.setCtrl c).draws = s.draws := rfl
@[simp] theorem State.setCtrl_drawCount (c : Ctrl) : (s.setCtrl c).drawCount = s.drawCount := rfl
@[simp] theorem State.setCtrl_op (c : Ctrl) : (s.setCtrl c).op = s.op := rfl
@[simp] theorem State.setCtrl_args (c : Ctrl) : (s.setCtrl c).args = s.args := rfl
@[simp] theorem State.setCtrl_result (c : Ctrl) : (s.setCtrl c).result = s.result := rfl
@[simp] theorem State.setCtrl_seq (c : Ctrl) : (s.setCtrl c).seq = s.seq := rfl
@[simp] theorem State.setCtrl_ptr (c : Ctrl) : (s.setCtrl c).ptr = s.ptr := rfl
@[simp] theorem State.setCtrl_busy (c : Ctrl) : (s.setCtrl c).busy = s.busy := rfl
@[simp] theorem State.setCtrl_err (c : Ctrl) : (s.setCtrl c).err = s.err := rfl
@[simp] theorem State.setCtrl_errCode (c : Ctrl) : (s.setCtrl c).errCode = s.errCode := rfl
@[simp] theorem State.setCtrl_everErr (c : Ctrl) : (s.setCtrl c).everErr = s.everErr := rfl
@[simp] theorem State.setCtrl_phase (c : Ctrl) : (s.setCtrl c).phase = s.phase := rfl
@[simp] theorem State.setCtrl_rst (c : Ctrl) : (s.setCtrl c).rst = s.rst := rfl
@[simp] theorem State.setCtrl_cs (c : Ctrl) : (s.setCtrl c).cs = s.cs := rfl
@[simp] theorem State.setCtrl_dc (c : Ctrl) : (s.setCtrl c).dc = s.dc := rfl
@[simp] theorem State.setCtrl_fb (c : Ctrl) : (s.setCtrl c).fb = s.fb := rfl
@[simp] theorem State.setCtrl_fbGen (c : Ctrl) : (s.setCtrl c).fbGen = s.fbGen := rfl
@[simp] theorem State.setCtrl_trace (c : Ctrl) : (s.setCtrl c).trace = s.trace := rfl
@[simp] theorem State.setCtrl_ctrl (c : Ctrl) : (s.setCtrl c).ctrl = c := rfl

@[simp] theorem State.latch_cfg (r : Request) (rest : List Request) : (s.latch r rest).cfg = s.cfg := rfl
@[simp] theorem State.latch_host (r : Request) (rest : List Request) : (s.latch r rest).host = rest := rfl
@[simp] theorem State.latch_draws (r : Request) (rest : List Request) : (s.latch r rest).draws = s.draws := rfl
@[simp] theorem State.latch_drawCount (r : Request) (rest : List Request) : (s.latch r rest).drawCount = s.drawCount := rfl
@[simp] theorem State.latch_op (r : Request) (rest : List Request) : (s.latch r rest).op = r.op := rfl
@[simp] theorem State.latch_args (r : Request) (rest : List Request) : (s.latch r rest).args = r.args := rfl
@[simp] theorem State.latch_result (r : Request) (rest : List Request) : (s.latch r rest).result = s.result := rfl
@[simp] theorem State.latch_seq (r : Request) (rest : List Request) : (s.latch r rest).seq = s.seq := rfl
@[simp] theorem State.latch_ptr (r : Request) (rest : List Request) : (s.latch r rest).ptr = s.ptr := rfl
@[simp] theorem State.latch_busy (r : Request) (rest : List Request) : (s.latch r rest).busy = s.busy := rfl
@[simp] theorem State.latch_err (r : Request) (rest : List Request) : (s.latch r rest).err = s.err := rfl
@[simp] theorem State.latch_errCode (r : Request) (rest : List Request) : (s.latch r rest).errCode = s.errCode := rfl
@[simp] theorem State.latch_everErr (r : Request) (rest : List Request) : (s.latch r rest).everErr = s.everErr := rfl
@[simp] theorem State.latch_phase (r : Request) (rest : List Request) : (s.latch r rest).phase = s.phase := rfl
@[simp] theorem State.latch_rst (r : Request) (rest : List Request) : (s.latch r rest).rst = s.rst := rfl
@[simp] theorem State.latch_cs (r : Request) (rest : List Request) : (s.latch r rest).cs = s.cs := rfl
@[simp] theorem State.latch_dc (r : Request) (rest : List Request) : (s.latch r rest).dc = s.dc := rfl
@[simp] theorem State.latch_fb (r : Request) (rest : List Request) : (s.latch r rest).fb = s.fb := rfl
@[simp] theorem State.latch_fbGen (r : Request) (rest : List Request) : (s.latch r rest).fbGen = s.fbGen := rfl
@[simp] theorem State.latch_trace (r : Request) (rest : List Request) : (s.latch r rest).trace = s.trace := rfl
@[simp] theorem State.latch_ctrl (r : Request) (rest : List Request) : (s.latch r rest).ctrl = s.ctrl := rfl

@[simp] theorem State.withRequest_cfg (r : Request) : (s.withRequest r).cfg = s.cfg := rfl
@[simp] theorem State.withRequest_host (r : Request) : (s.withRequest r).host = r :: s.host := rfl
@[simp] theorem State.withRequest_draws (r : Request) : (s.withRequest r).draws = s.draws := rfl
@[simp] theorem State.withRequest_drawCount (r : Request) : (s.withRequest r).drawCount = s.drawCount := rfl
@[simp] theorem State.withRequest_op (r : Request) : (s.withRequest r).op = s.op := rfl
@[simp] theorem State.withRequest_args (r : Request) : (s.withRequest r).args = s.args := rfl
@[simp] theorem State.withRequest_result (r : Request) : (s.withRequest r).result = s.result := rfl
@[simp] theorem State.withRequest_seq (r : Request) : (s.withRequest r).seq = s.seq := rfl
@[simp] theorem State.withRequest_ptr (r : Request) : (s.withRequest r).ptr = s.ptr := rfl
@[simp] theorem State.withRequest_busy (r : Request) : (s.withRequest r).busy = s.busy := rfl
@[simp] theorem State.withRequest_err (r : Request) : (s.withRequest r).err = s.err := rfl
@[simp] theorem State.withRequest_errCode (r : Request) : (s.withRequest r).errCode = s.errCode := rfl
@[simp] theorem State.withRequest_everErr (r : Request) : (s.withRequest r).everErr = s.everErr := rfl
@[simp] theorem State.withRequest_phase (r : Request) : (s.withRequest r).phase = s.phase := rfl
@[simp] theorem State.withRequest_rst (r : Request) : (s.withRequest r).rst = s.rst := rfl
@[simp] theorem State.withRequest_cs (r : Request) : (s.withRequest r).cs = s.cs := rfl
@[simp] theorem State.withRequest_dc (r : Request) : (s.withRequest r).dc = s.dc := rfl
@[simp] theorem State.withRequest_fb (r : Request) : (s.withRequest r).fb = s.fb := rfl
@[simp] theorem State.withRequest_fbGen (r : Request) : (s.withRequest r).fbGen = s.fbGen := rfl
@[simp] theorem State.withRequest_trace (r : Request) : (s.withRequest r).trace = s.trace := rfl
@[simp] theorem State.withRequest_ctrl (r : Request) : (s.withRequest r).ctrl = s.ctrl := rfl

@[simp] theorem State.nextStep_seq (k : Nat) (ks : List Nat) (h : s.seq = k :: ks) :
    s.nextStep.seq = (k + 1) :: ks := by
  simp [State.nextStep, h]

end Sys2Proof.Machine
end

