-- ==== Sys2Proof/Laws/Framebuffer.lean ====
section
/-! SUPPORT. The framebuffer: offsets, what `put` and `paint` change and leave, which pixels each drawing
operation touches, and that every write keeps the canonical form inside the buffer. -/

namespace Sys2Proof.Machine

/-! ### Offsets -/

theorem inb_iff {c : Config} {x y : Int} :
    inb c x y = true ↔ 0 ≤ x ∧ x < c.width ∧ 0 ≤ y ∧ y < c.height := by
  simp [inb, and_assoc]

/-- The offset of a pixel inside the buffer, in natural numbers. -/
theorem off_eq {c : Config} {x y : Int} (h : inb c x y = true) :
    off c x y = (y.toNat * c.width + x.toNat) * 2 := by
  obtain ⟨hx, -, hy, -⟩ := inb_iff.mp h
  obtain ⟨a, rfl⟩ := Int.eq_ofNat_of_zero_le hx
  obtain ⟨b, rfl⟩ := Int.eq_ofNat_of_zero_le hy
  simp only [off, Int.toNat_natCast]
  exact_mod_cast Int.toNat_natCast ((b * c.width + a) * 2)

/-- Both bytes of a pixel inside the buffer lie in it (rules R61, R62). -/
theorem off_lt {c : Config} {x y : Int} (h : inb c x y = true) : off c x y + 1 < c.fbLen := by
  rw [off_eq h, Config.fbLen]
  obtain ⟨hx, hx', hy, hy'⟩ := inb_iff.mp h
  have h1 : x.toNat < c.width := by omega
  have h2 : y.toNat + 1 ≤ c.height := by omega
  have h3 := Nat.mul_le_mul_right c.width h2
  rw [Nat.add_mul, Nat.one_mul, Nat.mul_comm c.height] at h3
  omega

/-- Two pixels inside the buffer with the same offset are the same. -/
theorem off_inj {c : Config} {x y x' y' : Int} (h : inb c x y = true) (h' : inb c x' y' = true)
    (e : off c x y = off c x' y') : x = x' ∧ y = y' := by
  rw [off_eq h, off_eq h'] at e
  obtain ⟨hx, hx1, hy, -⟩ := inb_iff.mp h
  obtain ⟨hx', hx1', hy', -⟩ := inb_iff.mp h'
  have e2 : x.toNat + c.width * y.toNat = x'.toNat + c.width * y'.toNat := by
    rw [Nat.mul_comm c.width, Nat.mul_comm c.width]; omega
  have hw : 0 < c.width := by omega
  have hm := congrArg (· % c.width) e2
  have hd := congrArg (· / c.width) e2
  simp only [Nat.add_mul_mod_self_left, Nat.add_mul_div_left _ _ hw] at hm hd
  rw [Nat.mod_eq_of_lt (by omega), Nat.mod_eq_of_lt (by omega)] at hm
  rw [Nat.div_eq_of_lt (by omega), Nat.div_eq_of_lt (by omega)] at hd
  omega

theorem off_even (c : Config) (x y : Int) : off c x y % 2 = 0 := by
  unfold off; omega

/-! ### Colours -/

theorem hi8_append_lo8 (c : Color) : (hi8 c ++ lo8 c : Color) = c := by
  simp only [hi8, lo8]
  rw [BitVec.extractLsb'_append_extractLsb'_eq_extractLsb' (by decide)]
  simp

/-! The two bytes of a pair. -/

theorem append_toNat (b a : Byte) : (b ++ a : BitVec 16).toNat = b.toNat * 256 + a.toNat := by
  rw [BitVec.toNat_append, ← Nat.shiftLeft_add_eq_or_of_lt a.isLt, Nat.shiftLeft_eq]

theorem lo8_append (b a : Byte) : lo8 (b ++ a : BitVec 16) = a := by
  apply BitVec.eq_of_toNat_eq
  rw [lo8, BitVec.extractLsb'_toNat, append_toNat]
  have := a.isLt
  simp only [Nat.shiftRight_zero]; omega

theorem hi8_append (b a : Byte) : hi8 (b ++ a : BitVec 16) = b := by
  apply BitVec.eq_of_toNat_eq
  rw [hi8, BitVec.extractLsb'_toNat, append_toNat, Nat.shiftRight_eq_div_pow]
  have := a.isLt
  have := b.isLt
  omega

/-- A colour read back from its two stored bytes (rule R63), under either order. -/
@[simp] theorem colorOfBytes_colorBytes (o : ByteOrder) (c : Color) :
    colorOfBytes o (colorBytes o c).1 (colorBytes o c).2 = c := by
  cases o <;> exact hi8_append_lo8 c

/-! ### put and paint -/

/-- `put` writes the framebuffer and nothing else. -/
theorem State.put_eq (s : State) (p : Int × Int) (c : Color) : s.put p c = { s with fb := (s.put p c).fb } := by
  unfold State.put; split <;> rfl

@[simp] theorem State.put_cfg (s : State) (p : Int × Int) (c : Color) : (s.put p c).cfg = s.cfg := by
  rw [State.put_eq]

@[simp] theorem State.put_fbGen (s : State) (p : Int × Int) (c : Color) : (s.put p c).fbGen = s.fbGen := by
  rw [State.put_eq]

/-- The bytes after `put` (rules R62, R190): the two bytes of the pixel when it lies inside. -/
theorem State.put_fbByte (s : State) (p : Int × Int) (c : Color) (a : Nat) :
    (s.put p c).fbByte a =
      if inb s.cfg p.1 p.2 = true ∧ a = off s.cfg p.1 p.2 + 1 then (colorBytes s.cfg.fbByteOrder c).2
      else if inb s.cfg p.1 p.2 = true ∧ a = off s.cfg p.1 p.2 then (colorBytes s.cfg.fbByteOrder c).1
      else s.fbByte a := by
  unfold State.put
  by_cases h : inb s.cfg p.1 p.2 = true
  · simp only [h, if_true, true_and, State.fbByte, cellRead_cellWrite]
    split <;> rename_i h1 <;> split at h1 <;> simp_all
    all_goals split at h1 <;> simp_all
  · simp [h]

/-- `get` after `put`: the pixel put, if it lies inside, and every other pixel as before (rule R198 (a)). -/
theorem State.put_get (s : State) (p : Int × Int) (c : Color) (x y : Int) :
    (s.put p c).get x y = if inb s.cfg x y = true ∧ p = (x, y) then some c else s.get x y := by
  unfold State.get
  simp only [State.put_cfg, State.put_fbByte]
  by_cases h : inb s.cfg x y = true
  · simp only [h, if_true, true_and]
    by_cases hp : p = (x, y)
    · subst hp; simp [h]
    · by_cases hin : inb s.cfg p.1 p.2 = true
      · have hne : off s.cfg x y ≠ off s.cfg p.1 p.2 := by
          intro e
          obtain ⟨e1, e2⟩ := off_inj h hin e
          exact hp (Prod.ext e1.symm e2.symm)
        have e1 := off_even s.cfg x y
        have e2 := off_even s.cfg p.1 p.2
        rw [if_neg (by omega), if_neg (by omega), if_neg (by omega), if_neg (by omega), if_neg hp]
      · simp [hin, hp]
  · simp [h]

theorem State.put_wf {s : State} (p : Int × Int) (c : Color) (h : Memory.wf s.fb) : Memory.wf (s.put p c).fb := by
  unfold State.put
  split
  · exact cellWrite_wf _ _ (cellWrite_wf _ _ h)
  · exact h

theorem State.put_within {s : State} (p : Int × Int) (c : Color) (h : Memory.within s.cfg.fbLen s.fb) :
    Memory.within s.cfg.fbLen (s.put p c).fb := by
  unfold State.put
  split
  · have := off_lt ‹_›
    exact cellWrite_within _ this (cellWrite_within _ (by omega) h)
  · exact h

theorem State.paint_nil (s : State) (c : Color) : s.paint [] c = s := rfl

theorem State.paint_cons (s : State) (p : Int × Int) (ps : List (Int × Int)) (c : Color) :
    s.paint (p :: ps) c = (s.put p c).paint ps c := rfl

/-- `paint` writes the framebuffer and nothing else. -/
theorem State.paint_eq (s : State) (ps : List (Int × Int)) (c : Color) :
    s.paint ps c = { s with fb := (s.paint ps c).fb } := by
  induction ps generalizing s with
  | nil => rfl
  | cons p ps ih => rw [State.paint_cons, ih, State.put_eq]

@[simp] theorem State.paint_cfg (s : State) (ps : List (Int × Int)) (c : Color) : (s.paint ps c).cfg = s.cfg := by
  rw [State.paint_eq]

@[simp] theorem State.paint_fbGen (s : State) (ps : List (Int × Int)) (c : Color) :
    (s.paint ps c).fbGen = s.fbGen := by
  rw [State.paint_eq]

/-- `get` after `paint`: the pixels of the list inside the buffer have the colour, every other pixel is
as before. -/
theorem State.paint_get (s : State) (ps : List (Int × Int)) (c : Color) (x y : Int) :
    (s.paint ps c).get x y = if inb s.cfg x y = true ∧ (x, y) ∈ ps then some c else s.get x y := by
  induction ps generalizing s with
  | nil => simp [State.paint_nil]
  | cons p ps ih =>
    rw [State.paint_cons, ih, State.put_get, State.put_cfg]
    by_cases h : inb s.cfg x y = true <;> by_cases h1 : (x, y) ∈ ps <;> by_cases h2 : p = (x, y) <;>
      simp [h, h1, h2, eq_comm]

/-- A byte of no painted pixel is as before. -/
theorem State.paint_fbByte_of_notMem (s : State) (ps : List (Int × Int)) (c : Color) (a : Nat)
    (h : ∀ p ∈ ps, inb s.cfg p.1 p.2 = true → a ≠ off s.cfg p.1 p.2 ∧ a ≠ off s.cfg p.1 p.2 + 1) :
    (s.paint ps c).fbByte a = s.fbByte a := by
  induction ps generalizing s with
  | nil => rfl
  | cons p ps ih =>
    rw [State.paint_cons, ih]
    · rw [State.put_fbByte]
      have := h p (by simp)
      rw [if_neg (fun e => (this e.1).2 e.2), if_neg (fun e => (this e.1).1 e.2)]
    · intro q hq; rw [State.put_cfg]; exact h q (by simp [hq])

/-- The bytes of a pixel that is painted, or has the colour's bytes already. -/
theorem State.paint_fbByte_of_mem (s : State) (ps : List (Int × Int)) (c : Color) (x y : Int)
    (hin : inb s.cfg x y = true)
    (h : (x, y) ∈ ps ∨ (s.fbByte (off s.cfg x y) = (colorBytes s.cfg.fbByteOrder c).1 ∧
      s.fbByte (off s.cfg x y + 1) = (colorBytes s.cfg.fbByteOrder c).2)) :
    (s.paint ps c).fbByte (off s.cfg x y) = (colorBytes s.cfg.fbByteOrder c).1 ∧
      (s.paint ps c).fbByte (off s.cfg x y + 1) = (colorBytes s.cfg.fbByteOrder c).2 := by
  induction ps generalizing s with
  | nil => simpa [State.paint_nil] using h
  | cons p ps ih =>
    have := ih (s.put p c) (by simpa using hin)
    simp only [State.put_cfg] at this
    rw [State.paint_cons]
    refine this ?_
    simp only [State.put_fbByte]
    by_cases hp : p = (x, y)
    · right; subst hp; simp [hin]
    · have e1 := off_even s.cfg x y
      have e2 := off_even s.cfg p.1 p.2
      rcases h with h | h
      · left
        rcases List.mem_cons.mp h with h | h
        · exact absurd h.symm hp
        · exact h
      · right
        by_cases hq : inb s.cfg p.1 p.2 = true
        · have hne : off s.cfg x y ≠ off s.cfg p.1 p.2 := by
            intro e
            obtain ⟨e3, e4⟩ := off_inj hin hq e
            exact hp (Prod.ext e3.symm e4.symm)
          rw [if_neg (by omega), if_neg (by omega), if_neg (by omega), if_neg (by omega)]
          exact h
        · simp [hq, h]

theorem State.paint_wf {s : State} (ps : List (Int × Int)) (c : Color) (h : Memory.wf s.fb) :
    Memory.wf (s.paint ps c).fb := by
  induction ps generalizing s with
  | nil => exact h
  | cons p ps ih => exact ih (State.put_wf p c h)

theorem State.paint_within {s : State} (ps : List (Int × Int)) (c : Color)
    (h : Memory.within s.cfg.fbLen s.fb) : Memory.within s.cfg.fbLen (s.paint ps c).fb := by
  induction ps generalizing s with
  | nil => exact h
  | cons p ps ih =>
    have := ih (s := s.put p c) (by rw [State.put_cfg]; exact State.put_within p c h)
    rwa [State.put_cfg] at this

/-! ### The filled buffer -/

theorem State.fillAll_fbByte (s : State) (c : Color) (a : Nat) (h : a < s.cfg.fbLen) :
    (s.fillAll c).fbByte a =
      if a % 2 = 0 then (colorBytes s.cfg.fbByteOrder c).1 else (colorBytes s.cfg.fbByteOrder c).2 := by
  have h' : a < 2 * (s.cfg.width * s.cfg.height) := by rw [Config.fbLen] at h; omega
  simp [State.fbByte, cellRead_filledCells, h']

/-- `get` after `fillAll`: every pixel inside has the colour (rule R198 (b)). -/
theorem State.fillAll_get (s : State) (c : Color) (x y : Int) (h : inb s.cfg x y = true) :
    (s.fillAll c).get x y = some c := by
  have h1 := off_lt h
  have h2 := off_even s.cfg x y
  simp only [State.get, State.fillAll_cfg, h, if_true]
  rw [State.fillAll_fbByte _ _ _ (by omega), State.fillAll_fbByte _ _ _ h1, if_pos h2, if_neg (by omega),
    colorOfBytes_colorBytes]

theorem State.fillAll_wf (s : State) (c : Color) : Memory.wf (s.fillAll c).fb := filledCells_wf _ _ _

theorem State.fillAll_within (s : State) (c : Color) : Memory.within s.cfg.fbLen (s.fillAll c).fb := by
  rw [show s.cfg.fbLen = 2 * (s.cfg.width * s.cfg.height) by rw [Config.fbLen]; omega]
  exact filledCells_within _ _ _

/-! ### The pixels of the drawing operations -/

theorem mem_intRange {lo n i : Int} : i ∈ intRange lo n ↔ lo ≤ i ∧ i < lo + n := by
  simp only [intRange, List.mem_map, List.mem_range]
  constructor
  · rintro ⟨k, hk, rfl⟩; omega
  · intro h; exact ⟨(i - lo).toNat, by omega, by omega⟩

theorem mem_clipRange {lo n i : Int} {b : Nat} :
    i ∈ clipRange lo n b ↔ (lo ≤ i ∧ i < lo + n) ∧ 0 ≤ i ∧ i < b := by
  rw [clipRange, mem_intRange]; omega

/-- The pixels `FILL_RECT` touches (rule R194): those of the box inside the buffer. -/
theorem mem_rectPoints {c : Config} {x y w h i j : Int} :
    (i, j) ∈ rectPoints c x y w h ↔
      (x ≤ i ∧ i < x + w) ∧ (y ≤ j ∧ j < y + h) ∧ inb c i j = true := by
  simp only [rectPoints, List.mem_flatMap, List.mem_map, Prod.mk.injEq, mem_clipRange, inb_iff]
  constructor
  · rintro ⟨j', hj, i', hi, rfl, rfl⟩; tauto
  · rintro ⟨h1, h2, h3, h4, h5, h6⟩; exact ⟨j, ⟨h2, h5, h6⟩, i, ⟨h1, h3, h4⟩, rfl, rfl⟩

/-- The pixels of the outline inside the buffer (rule R195): those of the box on one of its four
edges. -/
theorem mem_outlinePoints {c : Config} {x y w h i j : Int} (hin : inb c i j = true) :
    (i, j) ∈ outlinePoints c x y w h ↔
      ((x ≤ i ∧ i < x + w) ∧ (y ≤ j ∧ j < y + h)) ∧
        (i = x ∨ i = x + w - 1 ∨ j = y ∨ j = y + h - 1) := by
  obtain ⟨h1, h2, h3, h4⟩ := inb_iff.mp hin
  unfold outlinePoints
  split
  · simp only [List.mem_append, List.mem_flatMap, mem_clipRange, List.mem_cons, Prod.mk.injEq,
      List.not_mem_nil, or_false]
    constructor
    · rintro (⟨i', hi, ⟨rfl, rfl⟩ | ⟨rfl, rfl⟩⟩ | ⟨j', hj, ⟨rfl, rfl⟩ | ⟨rfl, rfl⟩⟩) <;> omega
    · rintro ⟨⟨hi, hj⟩, e | e | e | e⟩
      · exact .inr ⟨j, ⟨hj, h3, h4⟩, .inl ⟨e, rfl⟩⟩
      · exact .inr ⟨j, ⟨hj, h3, h4⟩, .inr ⟨e, rfl⟩⟩
      · exact .inl ⟨i, ⟨hi, h1, h2⟩, .inl ⟨rfl, e⟩⟩
      · exact .inl ⟨i, ⟨hi, h1, h2⟩, .inr ⟨rfl, e⟩⟩
  · simp only [List.not_mem_nil, false_iff]; omega

theorem mem_glyphPoints {f : Font} {ch : Byte} {x y i j : Int} :
    (i, j) ∈ glyphPoints f ch x y ↔
      ∃ col row : Nat, col < 8 ∧ row < 8 ∧ fontPixel f ch col row = true ∧ i = x + col ∧ j = y + row := by
  simp only [glyphPoints, List.mem_flatMap, List.mem_map, List.mem_filter, List.mem_range, Prod.mk.injEq]
  constructor
  · rintro ⟨row, hr, col, ⟨hc, hp⟩, rfl, rfl⟩; exact ⟨col, row, hc, hr, hp, rfl, rfl⟩
  · rintro ⟨col, row, hc, hr, hp, rfl, rfl⟩; exact ⟨row, hr, col, ⟨hc, hp⟩, rfl, rfl⟩

/-- The pixels `DRAW_TEXT` touches (rule R196): the set pixels of each glyph in its cell. -/
theorem mem_textPoints {f : Font} {text : List Byte} {x y i j : Int} :
    (i, j) ∈ textPoints f text x y ↔
      ∃ k col row : Nat, ∃ ch, text[k]? = some ch ∧ col < 8 ∧ row < 8 ∧ fontPixel f ch col row = true ∧
        i = x + 8 * k + col ∧ j = y + row := by
  induction text generalizing x with
  | nil => simp [textPoints]
  | cons ch text ih =>
    rw [textPoints, List.mem_append, mem_glyphPoints, ih]
    constructor
    · rintro (⟨col, row, hc, hr, hp, rfl, rfl⟩ | ⟨k, col, row, ch', hk, hc, hr, hp, rfl, rfl⟩)
      · exact ⟨0, col, row, ch, rfl, hc, hr, hp, by simp, rfl⟩
      · exact ⟨k + 1, col, row, ch', by simpa using hk, hc, hr, hp, by push_cast; ring, rfl⟩
    · rintro ⟨k, col, row, ch', hk, hc, hr, hp, rfl, rfl⟩
      cases k with
      | zero => left; simp at hk; subst hk; exact ⟨col, row, hc, hr, hp, by simp, rfl⟩
      | succ k => right; exact ⟨k, col, row, ch', by simpa using hk, hc, hr, hp, by push_cast; ring, rfl⟩

/-- No pixel of a box lies outside exactly when every pixel of it lies inside. -/
theorem rectInside_iff {c : Config} {x y w h : Int} :
    rectInside c x y w h = true ↔
      ∀ i j, (x ≤ i ∧ i < x + w) → (y ≤ j ∧ j < y + h) → inb c i j = true := by
  simp only [rectInside, Bool.or_eq_true, Bool.and_eq_true, decide_eq_true_eq]
  constructor
  · intro hr i j hi hj
    rw [inb_iff]; omega
  · intro hr
    by_cases hw : w ≤ 0
    · tauto
    by_cases hh : h ≤ 0
    · tauto
    have h1 := inb_iff.mp (hr x y (by omega) (by omega))
    have h2 := inb_iff.mp (hr (x + w - 1) (y + h - 1) (by omega) (by omega))
    right; omega

/-- The pixels of the scaled squares (rule R197, step 5). -/
theorem mem_blockPoints {c : Config} {x y : Int} {scale : Nat} {recorded : List (Int × Int)} {i j : Int} :
    (i, j) ∈ blockPoints c x y scale recorded ↔
      inb c i j = true ∧ ∃ p ∈ recorded,
        ((scaledCorner x y scale p).1 ≤ i ∧ i < (scaledCorner x y scale p).1 + scale) ∧
        ((scaledCorner x y scale p).2 ≤ j ∧ j < (scaledCorner x y scale p).2 + scale) := by
  simp only [blockPoints, List.mem_flatMap, mem_rectPoints]
  constructor
  · rintro ⟨p, hp, h1, h2, h3⟩; exact ⟨h3, p, hp, h1, h2⟩
  · rintro ⟨h3, p, hp, h1, h2⟩; exact ⟨p, hp, h1, h2, h3⟩

end Sys2Proof.Machine
end

