-- ==== Sys2Proof/Laws/Flow.lean ====
section
/-! SUPPORT. The channel and the sub-sequences: for each, the state it goes on with when no transmission
fails, and the state it stands in at the first that does. -/

namespace Sys2Proof.Machine

/-! ### Draws -/

@[simp] theorem State.drawnBy_cfg (s : State) (n : Nat) : (s.drawnBy n).cfg = s.cfg := rfl
@[simp] theorem State.drawnBy_host (s : State) (n : Nat) : (s.drawnBy n).host = s.host := rfl
@[simp] theorem State.drawnBy_draws (s : State) (n : Nat) : (s.drawnBy n).draws = s.draws.drop n := rfl
@[simp] theorem State.drawnBy_drawCount (s : State) (n : Nat) : (s.drawnBy n).drawCount = s.drawCount + n := rfl
@[simp] theorem State.drawnBy_op (s : State) (n : Nat) : (s.drawnBy n).op = s.op := rfl
@[simp] theorem State.drawnBy_args (s : State) (n : Nat) : (s.drawnBy n).args = s.args := rfl
@[simp] theorem State.drawnBy_result (s : State) (n : Nat) : (s.drawnBy n).result = s.result := rfl
@[simp] theorem State.drawnBy_seq (s : State) (n : Nat) : (s.drawnBy n).seq = s.seq := rfl
@[simp] theorem State.drawnBy_ptr (s : State) (n : Nat) : (s.drawnBy n).ptr = s.ptr := rfl
@[simp] theorem State.drawnBy_busy (s : State) (n : Nat) : (s.drawnBy n).busy = s.busy := rfl
@[simp] theorem State.drawnBy_err (s : State) (n : Nat) : (s.drawnBy n).err = s.err := rfl
@[simp] theorem State.drawnBy_errCode (s : State) (n : Nat) : (s.drawnBy n).errCode = s.errCode := rfl
@[simp] theorem State.drawnBy_everErr (s : State) (n : Nat) : (s.drawnBy n).everErr = s.everErr := rfl
@[simp] theorem State.drawnBy_phase (s : State) (n : Nat) : (s.drawnBy n).phase = s.phase := rfl
@[simp] theorem State.drawnBy_rst (s : State) (n : Nat) : (s.drawnBy n).rst = s.rst := rfl
@[simp] theorem State.drawnBy_cs (s : State) (n : Nat) : (s.drawnBy n).cs = s.cs := rfl
@[simp] theorem State.drawnBy_dc (s : State) (n : Nat) : (s.drawnBy n).dc = s.dc := rfl
@[simp] theorem State.drawnBy_fb (s : State) (n : Nat) : (s.drawnBy n).fb = s.fb := rfl
@[simp] theorem State.drawnBy_fbGen (s : State) (n : Nat) : (s.drawnBy n).fbGen = s.fbGen := rfl
@[simp] theorem State.drawnBy_trace (s : State) (n : Nat) : (s.drawnBy n).trace = s.trace := rfl
@[simp] theorem State.drawnBy_ctrl (s : State) (n : Nat) : (s.drawnBy n).ctrl = s.ctrl := rfl

theorem State.nextDraw_eq (s : State) : s.nextDraw = s.drawAt 0 := by
  unfold State.nextDraw State.drawAt
  cases h : s.draws <;> simp

/-- The draws depend on the channel's fields alone. -/
theorem State.drawAt_congr {s t : State} (h1 : t.draws = s.draws) (h2 : t.drawCount = s.drawCount) (k : Nat) :
    t.drawAt k = s.drawAt k := by
  simp [State.drawAt, h1, h2]

theorem State.drawAt_drop {s t : State} (n : Nat) (h1 : t.draws = s.draws.drop n)
    (h2 : t.drawCount = s.drawCount + n) (k : Nat) : t.drawAt k = s.drawAt (n + k) := by
  simp [State.drawAt, h1, h2, Nat.add_assoc]

theorem NoTxFails.mono {s : State} {m n : Nat} (h : NoTxFails s n) (hm : m ≤ n) : NoTxFails s m :=
  fun k hk => h k (Nat.lt_of_lt_of_le hk hm)

theorem NoTxFails.tail {s t : State} {n : Nat} (h : NoTxFails s (n + 1)) (h1 : t.draws = s.draws.tail)
    (h2 : t.drawCount = s.drawCount + 1) : NoTxFails t n := by
  intro k hk
  rw [State.drawAt_drop 1 (by simpa using h1) h2, Nat.add_comm]
  exact h _ (by omega)

theorem TxFailsAt.tail {s t : State} {n : Nat} (h : TxFailsAt s (n + 1)) (h1 : t.draws = s.draws.tail)
    (h2 : t.drawCount = s.drawCount + 1) : TxFailsAt t n := by
  refine ⟨NoTxFails.tail h.1 h1 h2, ?_⟩
  rw [State.drawAt_drop 1 (by simpa using h1) h2, Nat.add_comm]
  exact h.2

theorem NoTxFails.drop {s t : State} {m n : Nat} (h : NoTxFails s (m + n)) (h1 : t.draws = s.draws.drop m)
    (h2 : t.drawCount = s.drawCount + m) : NoTxFails t n := by
  intro k hk
  rw [State.drawAt_drop m h1 h2]
  exact h _ (by omega)

theorem TxFailsAt.drop {s t : State} {m n : Nat} (h : TxFailsAt s (m + n)) (h1 : t.draws = s.draws.drop m)
    (h2 : t.drawCount = s.drawCount + m) : TxFailsAt t n := by
  refine ⟨NoTxFails.drop h.1 h1 h2, ?_⟩
  rw [State.drawAt_drop m h1 h2]
  exact h.2

theorem NoTxFails.congr {s t : State} {n : Nat} (h : NoTxFails s n) (h1 : t.draws = s.draws)
    (h2 : t.drawCount = s.drawCount) : NoTxFails t n :=
  fun k hk => by rw [State.drawAt_congr h1 h2]; exact h k hk

theorem TxFailsAt.congr {s t : State} {n : Nat} (h : TxFailsAt s n) (h1 : t.draws = s.draws)
    (h2 : t.drawCount = s.drawCount) : TxFailsAt t n :=
  ⟨NoTxFails.congr h.1 h1 h2, by rw [State.drawAt_congr h1 h2]; exact h.2⟩

/-- Of the next `n` transmissions either none fails or one is the first to fail. -/
theorem noTxFails_or (s : State) (n : Nat) : NoTxFails s n ∨ ∃ k, k < n ∧ TxFailsAt s k := by
  induction n with
  | zero => exact .inl (fun k hk => absurd hk (Nat.not_lt_zero k))
  | succ n ih =>
    rcases ih with h | ⟨k, hk, h⟩
    · by_cases hd : s.drawAt n = true
      · left
        intro k hk
        by_cases e : k = n
        · subst e; exact hd
        · exact h k (by omega)
      · exact .inr ⟨n, by omega, h, by simpa using hd⟩
    · exact .inr ⟨k, by omega, h⟩

/-! ### Flow -/

@[simp] theorem Flow.going_andThen (s : State) (f : State → Flow) : (Flow.going s).andThen f = f s := rfl
@[simp] theorem Flow.failed_andThen (s : State) (f : State → Flow) : (Flow.failed s).andThen f = .failed s := rfl
@[simp] theorem Flow.going_thenDo (s : State) (f : State → State) : (Flow.going s).thenDo f = .going (f s) := rfl
@[simp] theorem Flow.failed_thenDo (s : State) (f : State → State) : (Flow.failed s).thenDo f = .failed s := rfl
@[simp] theorem Flow.going_conclude (s : State) (c : Ctrl) (p : Phase) :
    (Flow.going s).conclude c p = (s.setCtrl c).done .ok := rfl
@[simp] theorem Flow.failed_conclude (s : State) (c : Ctrl) (p : Phase) :
    (Flow.failed s).conclude c p = s.abort p := rfl

/-- A transmission that succeeds (rule R212). -/
theorem tx_going {b : Byte} {s : State} (h : s.drawAt 0 = true) : tx b s = .going (s.drawn.sent b) := by
  rw [tx, State.nextDraw_eq, if_pos h]

/-- A transmission that fails (rule R212). -/
theorem tx_failed {b : Byte} {s : State} (h : s.drawAt 0 = false) : tx b s = .failed s.drawn := by
  rw [tx, State.nextDraw_eq, if_neg (by simp [h])]

/-! ### Bytes of a data frame -/

/-- A blob none of whose bytes fails: all its bytes, and `PTR` advanced by their number (rule R122). -/
theorem sendBlob_going (bs : List Byte) (s : State) (h : NoTxFails s bs.length) :
    sendBlob bs s = .going { s.drawnBy bs.length with
      trace := s.trace ++ bs.map .tx, ptr := s.ptr + bs.length } := by
  induction bs generalizing s with
  | nil => simp [sendBlob, State.drawnBy]
  | cons b bs ih =>
    rw [sendBlob, tx_going (h 0 (by simp)), Flow.going_andThen, ih _ (NoTxFails.tail h rfl rfl)]
    simp only [State.drawnBy, State.sent, State.drawn, State.nextByte, List.length_cons, List.map_cons,
      List.append_assoc, List.singleton_append, List.drop_tail, Nat.add_assoc, Nat.add_comm 1]

/-- A blob whose byte `n` fails: the bytes before it, and `PTR` at it (rules R35, R122). -/
theorem sendBlob_failed (bs : List Byte) (s : State) (n : Nat) (hn : n < bs.length) (h : TxFailsAt s n) :
    sendBlob bs s = .failed { s.drawnBy (n + 1) with
      trace := s.trace ++ (bs.take n).map .tx, ptr := s.ptr + n } := by
  induction bs generalizing s n with
  | nil => exact absurd hn (Nat.not_lt_zero n)
  | cons b bs ih =>
    cases n with
    | zero =>
      rw [sendBlob, tx_failed h.2, Flow.failed_andThen]
      simp [State.drawnBy, State.drawn]
    | succ n =>
      rw [sendBlob, tx_going (h.1 0 (by omega)), Flow.going_andThen,
        ih _ n (by simpa using hn) (TxFailsAt.tail h rfl rfl)]
      simp only [State.drawnBy, State.sent, State.drawn, State.nextByte, List.take_succ_cons, List.map_cons,
        List.append_assoc, List.singleton_append, List.drop_tail, Nat.add_assoc, Nat.add_comm 1]

/-- Streaming the framebuffer in place sends its bytes as they stood when the stream began (rule
R77). -/
theorem sendFb_eq (n : Nat) (s : State) :
    sendFb n s = sendBlob ((List.range n).map fun i => s.fbByte (s.ptr + i)) s := by
  induction n generalizing s with
  | zero => rfl
  | succ n ih =>
    rw [List.range_succ_eq_map, List.map_cons, List.map_map, sendFb, sendBlob]
    unfold tx
    split
    · simp only [Flow.going_andThen, ih]
      congr 1
      apply List.map_congr_left
      intro i _
      simp only [State.fbByte, State.nextByte_fb, State.sent_fb, State.drawn_fb, State.nextByte_fbGen,
        State.sent_fbGen, State.drawn_fbGen, State.nextByte_ptr, State.sent_ptr, State.drawn_ptr, Function.comp]
      rw [Nat.succ_eq_add_one, Nat.add_assoc, Nat.add_comm 1]
    · rfl

/-! ### Frames -/

/-- A data frame none of whose bytes fails (rule R122). -/
theorem writeDataBody_going {bs : List Byte} {s : State} {k : Nat} {ks : List Nat} (hseq : s.seq = k :: ks)
    (h : NoTxFails s bs.length) :
    writeDataBody bs s = .going { s.drawnBy bs.length with
      trace := s.trace ++ dataFrameOf bs, cs := .driven .inactive, dc := .driven .data, ptr := bs.length,
      seq := (k + 3) :: ks } := by
  rw [writeDataBody, dataFrame, sendBlob_going]
  · simp only [Flow.going_thenDo, State.drawnBy, State.nextStep, State.emitCs, State.emitDc, State.openData,
      hseq, dataFrameOf, List.append_assoc, List.cons_append, List.nil_append, Nat.zero_add]
  · exact h.congr rfl rfl

/-- A data frame whose byte `n` fails (rules R35, R122). -/
theorem writeDataBody_failed {bs : List Byte} {s : State} {k n : Nat} {ks : List Nat} (hseq : s.seq = k :: ks)
    (hn : n < bs.length) (h : TxFailsAt s n) :
    writeDataBody bs s = .failed { s.drawnBy (n + 1) with
      trace := s.trace ++ [.cs .active, .dc .data] ++ (bs.take n).map .tx, cs := .driven .active,
      dc := .driven .data, ptr := n, seq := (k + 2) :: ks } := by
  rw [writeDataBody, dataFrame, sendBlob_failed _ _ n hn]
  · simp only [Flow.failed_thenDo, State.drawnBy, State.nextStep, State.emitCs, State.emitDc, State.openData,
      hseq, List.append_assoc, List.cons_append, List.nil_append, Nat.zero_add]
  · exact h.congr rfl rfl

/-- A command frame whose byte goes out (rule R121). -/
theorem writeCommandBody_going {b : Byte} {s : State} {k : Nat} {ks : List Nat} (hseq : s.seq = k :: ks)
    (h : s.drawAt 0 = true) :
    writeCommandBody b s = .going { s.drawnBy 1 with
      trace := s.trace ++ frameOf (.cmd, b), cs := .driven .inactive, dc := .driven .cmd,
      seq := (k + 3) :: ks } := by
  rw [writeCommandBody, tx_going]
  · simp [State.drawnBy, State.nextStep, State.emitCs, State.emitDc, State.drawn, State.sent, hseq, frameOf]
  · exact h

/-- A command frame whose byte fails (rules R35, R121). -/
theorem writeCommandBody_failed {b : Byte} {s : State} {k : Nat} {ks : List Nat} (hseq : s.seq = k :: ks)
    (h : s.drawAt 0 = false) :
    writeCommandBody b s = .failed { s.drawnBy 1 with
      trace := s.trace ++ [.cs .active, .dc .cmd], cs := .driven .active, dc := .driven .cmd,
      seq := (k + 2) :: ks } := by
  rw [writeCommandBody, tx_failed]
  · simp [State.drawnBy, State.nextStep, State.emitCs, State.emitDc, State.drawn, hseq]
  · exact h

/-- `PTR` after a one-byte frame: a command frame leaves it (rules R121, R122). -/
def ptrAfterByte (d : DcClass) (p : Nat) : Nat := if d = .data then 1 else p

/-- A one-byte frame that goes out (rule R124). -/
theorem sendByte_going {w : WireByte} {s : State} (h : s.drawAt 0 = true) :
    sendByte w s = .going { s.drawnBy 1 with
      trace := s.trace ++ frameOf w, cs := .driven .inactive, dc := .driven w.1,
      ptr := ptrAfterByte w.1 s.ptr } := by
  obtain ⟨d, b⟩ := w
  cases d with
  | cmd =>
    simp only [sendByte, call]
    rw [writeCommandBody_going (s := s.enter) (k := 0) (ks := s.seq) rfl h]
    rfl
  | data =>
    simp only [sendByte, call]
    have h1 : NoTxFails s.enter [b].length := fun k hk => by
      obtain rfl : k = 0 := by simpa using hk
      exact h
    rw [writeDataBody_going (s := s.enter) (k := 0) (ks := s.seq) rfl h1]
    rfl

/-- A one-byte frame whose byte fails: the levels of the sequencer stay (rules R35, R124). -/
theorem sendByte_failed {w : WireByte} {s : State} (h : s.drawAt 0 = false) :
    sendByte w s = .failed { s.drawnBy 1 with
      trace := s.trace ++ [.cs .active, .dc w.1], cs := .driven .active, dc := .driven w.1,
      ptr := if w.1 = .data then 0 else s.ptr, seq := 2 :: s.seq } := by
  obtain ⟨d, b⟩ := w
  cases d with
  | cmd =>
    simp only [sendByte, call]
    rw [writeCommandBody_failed (s := s.enter) (k := 0) (ks := s.seq) rfl h]
    rfl
  | data =>
    simp only [sendByte, call]
    rw [writeDataBody_failed (s := s.enter) (k := 0) (ks := s.seq) (n := 0) rfl (by simp)
      ⟨fun k hk => absurd hk (Nat.not_lt_zero k), h⟩]
    simp [State.drawnBy, State.enter]

/-! ### Byte traces, one frame a byte -/

theorem dcAfter_cons (w : WireByte) (ws : List WireByte) (p : Pin DcClass) :
    dcAfter (w :: ws) p = dcAfter ws (.driven w.1) := by
  cases ws with
  | nil => rfl
  | cons v vs =>
    simp only [dcAfter, List.getLast?_cons_cons]
    cases h : (v :: vs).getLast? with
    | none => simp at h
    | some u => rfl

theorem csAfter_cons (w : WireByte) (ws : List WireByte) (p : Pin CsLevel) :
    csAfter (w :: ws) p = csAfter ws (.driven .inactive) := by
  cases ws <;> rfl

theorem ptrAfter_cons (w : WireByte) (ws : List WireByte) (p : Nat) :
    ptrAfter (w :: ws) p = ptrAfter ws (ptrAfterByte w.1 p) := by
  simp only [ptrAfter, ptrAfterByte, List.any_cons]
  by_cases h : w.1 = .data <;> simp [h]

/-- The frames of a byte trace when no transmission fails: each sent in order, one micro-step of the
caller each (rules R142 to R144, R161). -/
theorem sendBytes_going {ws : List WireByte} {s : State} {k : Nat} {ks : List Nat} (hseq : s.seq = k :: ks)
    (h : NoTxFails s ws.length) :
    sendBytes ws s = .going { s.framesSent ws with seq := (k + ws.length) :: ks } := by
  induction ws generalizing s k with
  | nil => simp [sendBytes, State.framesSent, State.drawnBy, framesOf, csAfter, dcAfter, ptrAfter, ← hseq]
  | cons w ws ih =>
    rw [sendBytes, sendByte_going (h 0 (by simp)), Flow.going_andThen,
      ih (k := k + 1) (by simp [State.nextStep, State.drawnBy, hseq])
        (NoTxFails.tail h (by simp [State.drawnBy]) rfl)]
    simp only [State.framesSent]
    rw [csAfter_cons, dcAfter_cons, ptrAfter_cons]
    simp [State.drawnBy, State.nextStep, framesOf, Nat.add_assoc, Nat.add_comm 1]

/-- The frames of a byte trace when the transmission number `n` is the first to fail: the frames before
it, its own frame cut, and every level of the sequencer at the step that failed (rules R35, R142). -/
theorem sendBytes_failed {ws : List WireByte} {s : State} {k n : Nat} {ks : List Nat} {w : WireByte}
    (hseq : s.seq = k :: ks) (hw : ws[n]? = some w) (h : TxFailsAt s n) :
    sendBytes ws s = .failed { s.drawnBy (n + 1) with
      trace := s.trace ++ framesOf (ws.take n) ++ [.cs .active, .dc w.1], cs := .driven .active,
      dc := .driven w.1, ptr := if w.1 = .data then 0 else ptrAfter (ws.take n) s.ptr,
      seq := 2 :: (k + n) :: ks } := by
  induction ws generalizing s k n with
  | nil => simp at hw
  | cons v ws ih =>
    cases n with
    | zero =>
      simp only [List.getElem?_cons_zero, Option.some.injEq] at hw
      subst hw
      rw [sendBytes, sendByte_failed h.2, Flow.failed_andThen]
      simp [State.drawnBy, framesOf, ptrAfter, hseq]
    | succ n =>
      rw [sendBytes, sendByte_going (h.1 0 (by omega)), Flow.going_andThen,
        ih (k := k + 1) (n := n) (by simp [State.nextStep, State.drawnBy, hseq]) (by simpa using hw)
          (TxFailsAt.tail h (by simp [State.drawnBy]) rfl)]
      rw [List.take_succ_cons, ptrAfter_cons]
      simp [State.drawnBy, State.nextStep, framesOf, Nat.add_assoc, Nat.add_comm 1]

end Sys2Proof.Machine
end

