-- ==== Sys2Proof/Laws/Operations.lean ====
section
/-! SUPPORT. Acceptance, and the bodies of the composite operations: one lemma per case, no failure or the
first failure. -/

namespace Sys2Proof.Machine

/-! ### Acceptance (rules R37, R218) -/

theorem onRequest_busy {s : State} {run : State → State} (h : s.busy = true) :
    onRequest s run = .fault .requestWhileBusy := by
  simp [onRequest, h]

theorem onRequest_free {s : State} {run : State → State} (h : s.busy = false) :
    onRequest s run = .next (run s) := by
  simp [onRequest, h]

theorem onDriverRequest_ready {s : State} {run : State → State} (h : Ready s) : onDriverRequest s run = .next (run s) := by
  simp [onDriverRequest, onRequest, h.1, h.2, constructed]

theorem onDriverRequest_notConstructed {s : State} {run : State → State} (h : s.busy = false)
    (hp : s.phase = .off ∨ s.phase = .failed) : onDriverRequest s run = .next (s.raise .notConstructed) := by
  rcases hp with hp | hp <;> simp [onDriverRequest, onRequest, h, hp, constructed]

theorem transmit_ready {s : State} {body : State → Flow} {c : Ctrl} (h : Ready s) :
    transmit s body c = .next ((body s.accept).conclude c .idle) := onDriverRequest_ready h

/-- Everything acceptance can answer. -/
theorem onDriverRequest_cases (s : State) (run : State → State) :
    (s.busy = true ∧ onDriverRequest s run = .fault .requestWhileBusy) ∨
    (s.busy = false ∧ constructed s.phase = false ∧ onDriverRequest s run = .next (s.raise .notConstructed)) ∨
    (s.busy = false ∧ constructed s.phase = true ∧ onDriverRequest s run = .next (run s)) := by
  cases hb : s.busy <;> cases hc : constructed s.phase <;> simp [onDriverRequest, onRequest, hb, hc]

theorem framebufferOp_ready {s : State} {inside : Bool} {run : State → State} (h : Ready s)
    (hin : s.cfg.oobPolicy = .clip ∨ inside = true) : framebufferOp s inside run = .next (run s.accept) := by
  rw [framebufferOp, onDriverRequest_ready h, if_neg]
  rcases hin with hin | hin <;> simp [hin]

theorem framebufferOp_outside {s : State} {inside : Bool} {run : State → State} (h : Ready s)
    (hp : s.cfg.oobPolicy = .reject) (hin : inside = false) :
    framebufferOp s inside run = .next s.accept.boundsViolation := by
  rw [framebufferOp, onDriverRequest_ready h, if_pos ⟨hp, hin⟩]

theorem ctrlOpened_eq (c : Ctrl) :
    ctrlOpened c = if c = .configured ∨ c = .ramOpen then .ramOpen else .undefined := by
  cases c <;> rfl

/-- An operation that sends a byte trace, none of whose bytes fails. -/
theorem transmit_sendBytes_going {s : State} {ws : List WireByte} {c : Ctrl} (hr : Ready s)
    (h : NoTxFails s ws.length) :
    transmit s (sendBytes ws) c = .next { (s.finished .ok).framesSent ws with ctrl := c } := by
  rw [transmit_ready hr, sendBytes_going (s := s.accept) (k := 0) (ks := []) rfl (h.congr rfl rfl)]
  simp [State.done, State.setCtrl, State.accept, State.finished, State.framesSent, State.drawnBy]

/-- An operation that sends a byte trace whose byte `n` fails. -/
theorem transmit_sendBytes_failed {s : State} {ws : List WireByte} {c : Ctrl} {n : Nat} {w : WireByte}
    (hr : Ready s) (hw : ws[n]? = some w) (h : TxFailsAt s n) :
    transmit s (sendBytes ws) c =
      .next { (s.transportFailed .idle).framesCut ws n w.1 with seq := [2, n] } := by
  rw [transmit_ready hr, sendBytes_failed (s := s.accept) (k := 0) (ks := []) rfl hw (h.congr rfl rfl)]
  simp [State.abort, State.sendFailed, State.raise, State.emitCs, State.accept, State.transportFailed,
    State.drawnBy, excCode, State.framesCut, cutFrameOf]

/-- What concluding an operation that transmits leaves in the flags and in `CTRL`. -/
theorem Flow.conclude_flags (f : Flow) (c : Ctrl) (p : Phase) :
    ((f.conclude c p).err = false ∧ (f.conclude c p).errCode = 0 ∧ (f.conclude c p).ctrl = c) ∨
    ((f.conclude c p).err = true ∧ (f.conclude c p).errCode = 0x01 ∧ (f.conclude c p).ctrl = .undefined) := by
  cases f
  · exact .inl ⟨rfl, rfl, rfl⟩
  · exact .inr ⟨rfl, rfl, rfl⟩

/-- What an operation that transmits leaves in the flags and in `CTRL`. -/
theorem transmit_flags {s t : State} {body : State → Flow} {c : Ctrl} (h : transmit s body c = .next t) :
    (t.err = true ∧ t.errCode = 0x05 ∧ t.ctrl = s.ctrl) ∨ (t.err = false ∧ t.errCode = 0 ∧ t.ctrl = c) ∨
    (t.err = true ∧ t.errCode = 0x01 ∧ t.ctrl = .undefined) := by
  rw [transmit] at h
  rcases onDriverRequest_cases s (fun s => (body s.accept).conclude c .idle) with ⟨-, e⟩ | ⟨-, -, e⟩ | ⟨-, -, e⟩ <;>
    rw [e] at h <;> simp only [Host.Outcome.next.injEq, reduceCtorEq] at h
  · subst h; exact .inl ⟨rfl, rfl, rfl⟩
  · subst h; exact .inr (Flow.conclude_flags _ _ _)

/-! ### The reset pulse (rule R123) -/

theorem pulseResetBody_eq {s : State} {k : Nat} {ks : List Nat} (hseq : s.seq = k :: ks) :
    pulseResetBody s = { s with
      rst := .driven .high, trace := s.trace ++ resetPulseOf s.cfg, seq := (k + 6) :: ks } := by
  unfold pulseResetBody resetPulseOf
  by_cases h : s.cfg.tRstPost = 0 <;> simp [State.nextStep, State.emitRst, State.wait, hseq, h]

/-! ### Calls (rule R124) -/

/-- A called byte trace that goes out: the caller's levels are back as they were. -/
theorem call_sendBytes_going {ws : List WireByte} {s : State} (h : NoTxFails s ws.length) :
    call (sendBytes ws) s = .going (s.framesSent ws) := by
  unfold call
  rw [sendBytes_going (s := s.enter) (k := 0) (ks := s.seq) rfl (h.congr rfl rfl)]
  rfl

/-- A called byte trace that fails at byte `n`. -/
theorem call_sendBytes_failed {ws : List WireByte} {s : State} {n : Nat} {w : WireByte} (hw : ws[n]? = some w)
    (h : TxFailsAt s n) :
    call (sendBytes ws) s = .failed { s.drawnBy (n + 1) with
      trace := s.trace ++ framesOf (ws.take n) ++ [.cs .active, .dc w.1], cs := .driven .active,
      dc := .driven w.1, ptr := if w.1 = .data then 0 else ptrAfter (ws.take n) s.ptr,
      seq := 2 :: n :: s.seq } := by
  unfold call
  rw [sendBytes_failed (s := s.enter) (k := 0) (ks := s.seq) rfl hw (h.congr rfl rfl), Nat.zero_add]
  rfl

/-- A called data frame that goes out. -/
theorem call_writeData_going {bs : List Byte} {s : State} (h : NoTxFails s bs.length) :
    call (writeDataBody bs) s = .going { s.drawnBy bs.length with
      trace := s.trace ++ dataFrameOf bs, cs := .driven .inactive, dc := .driven .data, ptr := bs.length } := by
  unfold call
  rw [writeDataBody_going (s := s.enter) (k := 0) (ks := s.seq) rfl (h.congr rfl rfl)]
  rfl

/-- A called data frame that fails at byte `n`. -/
theorem call_writeData_failed {bs : List Byte} {s : State} {n : Nat} (hn : n < bs.length) (h : TxFailsAt s n) :
    call (writeDataBody bs) s = .failed { s.drawnBy (n + 1) with
      trace := s.trace ++ [.cs .active, .dc .data] ++ (bs.take n).map .tx, cs := .driven .active,
      dc := .driven .data, ptr := n, seq := 2 :: s.seq } := by
  unfold call
  rw [writeDataBody_failed (s := s.enter) (k := 0) (ks := s.seq) rfl hn (h.congr rfl rfl)]
  rfl

/-! ### Flush (rule R182) -/

@[simp] theorem fullWindowBytes_length (c : Config) : (fullWindowBytes c).length = 7 := rfl

@[simp] theorem State.fbBytes_length (s : State) : s.fbBytes.length = s.cfg.fbLen := by simp [State.fbBytes]

theorem State.fbBytes_congr {s t : State} (h1 : t.cfg = s.cfg) (h2 : t.fb = s.fb) (h3 : t.fbGen = s.fbGen) :
    t.fbBytes = s.fbBytes := by
  simp only [State.fbBytes, h1]
  exact List.map_congr_left fun i _ => by simp only [State.fbByte, h2, h3]

/-- The stream of `FLUSH` is the data frame of the framebuffer's bytes (rules R64, R77). -/
theorem streamFb_eq (s : State) : call (dataFrame (sendFb s.cfg.fbLen)) s = call (writeDataBody s.fbBytes) s := by
  simp only [call, dataFrame, writeDataBody, sendFb_eq]
  congr 3
  rw [State.fbBytes]
  refine List.map_congr_left fun i _ => ?_
  simp [State.nextStep, State.emitCs, State.emitDc, State.openData, State.fbByte, State.enter]

/-- `FLUSH` in terms of the frames it calls. -/
theorem flushBody_eq (s : State) :
    flushBody s = ((call (sendBytes (fullWindowBytes s.cfg)) s).thenDo State.nextStep).andThen fun t =>
      (call (writeDataBody t.fbBytes) t).thenDo State.nextStep := by
  unfold flushBody
  rw [show call fullWindowBody s = call (sendBytes (fullWindowBytes s.cfg)) s from rfl]
  simp only [streamFb_eq]

/-- The state after a flush none of whose bytes fails. -/
theorem flushBody_going {s : State} {k : Nat} {ks : List Nat} (hseq : s.seq = k :: ks)
    (h : NoTxFails s (7 + s.cfg.fbLen)) :
    flushBody s = .going { s.drawnBy (7 + s.cfg.fbLen) with
      trace := s.trace ++ framesOf (fullWindowBytes s.cfg) ++ dataFrameOf s.fbBytes,
      cs := .driven .inactive, dc := .driven .data, ptr := s.cfg.fbLen, seq := (k + 2) :: ks } := by
  rw [flushBody_eq, call_sendBytes_going (h.mono (by simp))]
  simp only [Flow.going_thenDo, Flow.going_andThen]
  have e : (s.framesSent (fullWindowBytes s.cfg)).nextStep.fbBytes = s.fbBytes := State.fbBytes_congr rfl rfl rfl
  rw [e, call_writeData_going]
  · simp [State.nextStep, State.framesSent, State.drawnBy, hseq, Nat.add_assoc]
  · rw [State.fbBytes_length]
    exact h.drop rfl rfl

/-- A flush whose window frames fail at byte `n`. -/
theorem flushBody_failed_window {s : State} {n : Nat} {w : WireByte}
    (hw : (fullWindowBytes s.cfg)[n]? = some w) (h : TxFailsAt s n) :
    flushBody s = .failed { s.drawnBy (n + 1) with
      trace := s.trace ++ framesOf ((fullWindowBytes s.cfg).take n) ++ [.cs .active, .dc w.1],
      cs := .driven .active, dc := .driven w.1,
      ptr := if w.1 = .data then 0 else ptrAfter ((fullWindowBytes s.cfg).take n) s.ptr,
      seq := 2 :: n :: s.seq } := by
  rw [flushBody_eq, call_sendBytes_failed hw h]
  rfl

/-- A flush whose stream fails at byte `n` of the framebuffer. -/
theorem flushBody_failed_stream {s : State} {k n : Nat} {ks : List Nat} (hseq : s.seq = k :: ks)
    (hn : n < s.cfg.fbLen) (h : TxFailsAt s (7 + n)) :
    flushBody s = .failed { s.drawnBy (7 + n + 1) with
      trace := s.trace ++ framesOf (fullWindowBytes s.cfg) ++ [.cs .active, .dc .data] ++
        (s.fbBytes.take n).map .tx,
      cs := .driven .active, dc := .driven .data, ptr := n, seq := 2 :: (k + 1) :: ks } := by
  rw [flushBody_eq, call_sendBytes_going (h.1.mono (by simp))]
  simp only [Flow.going_thenDo, Flow.going_andThen]
  have e : (s.framesSent (fullWindowBytes s.cfg)).nextStep.fbBytes = s.fbBytes := State.fbBytes_congr rfl rfl rfl
  rw [e, call_writeData_failed (n := n) (by simpa using hn)]
  · simp [State.nextStep, State.framesSent, State.drawnBy, hseq, Nat.add_assoc]
  · exact h.drop rfl rfl

/-! ### New (rule R181) -/

/-- The state in which `NEW` begins its initialisation. -/
def State.poweredUp (s : State) : State :=
  { s with
    fb := [], fbGen := s.fbGen + 1, err := false, errCode := 0, ptr := 0, rst := .driven .high,
    trace := s.trace ++ resetPulseOf s.cfg, ctrl := .reset, seq := [2] }

/-- `NEW` in terms of the frames it calls. -/
theorem newBody_eq {s : State} (hseq : s.seq = [0]) :
    newBody s = (call (sendBytes s.cfg.initTable) s.poweredUp).thenDo State.nextStep := by
  have hp := pulseResetBody_eq
    (s := (({ s.freshFb with err := false, errCode := 0, ptr := 0 } : State).nextStep).enter) (k := 0) (ks := [1])
    (by simp [State.nextStep, State.enter, State.freshFb, hseq])
  simp only [newBody]
  rw [hp]
  rfl

theorem newBody_going {s : State} (hseq : s.seq = [0]) (h : NoTxFails s s.cfg.initTable.length) :
    newBody s = .going { s.poweredUp.framesSent s.cfg.initTable with seq := [3] } := by
  rw [newBody_eq hseq, call_sendBytes_going (s := s.poweredUp) (h.congr rfl rfl)]
  rfl

theorem newBody_failed {s : State} {n : Nat} {w : WireByte} (hseq : s.seq = [0])
    (hw : s.cfg.initTable[n]? = some w) (h : TxFailsAt s n) :
    newBody s = .failed { s.poweredUp.drawnBy (n + 1) with
      trace := s.trace ++ resetPulseOf s.cfg ++ framesOf (s.cfg.initTable.take n) ++ [.cs .active, .dc w.1],
      cs := .driven .active, dc := .driven w.1,
      ptr := if w.1 = .data then 0 else ptrAfter (s.cfg.initTable.take n) 0, seq := [2, n, 2] } := by
  rw [newBody_eq hseq, call_sendBytes_failed (s := s.poweredUp) hw (h.congr rfl rfl)]
  rfl

end Sys2Proof.Machine
end

