-- ==== Sys2Proof/Laws/Drawing.lean ====
section
/-! SUPPORT. What the drawing operations leave in the framebuffer, in the terms claims use. -/

namespace Sys2Proof.Machine

/-! ### Painting and finishing -/

theorem State.done_paint_get (s : State) (ps : List (Int × Int)) (c : Color) (r : Result) (u v : Int) :
    ((s.accept.paint ps c).done r).get u v =
      if inb s.cfg u v = true ∧ (u, v) ∈ ps then some c else s.get u v :=
  State.paint_get s.accept ps c u v

theorem State.done_paint_fbByte_of_notMem (s : State) (ps : List (Int × Int)) (c : Color) (r : Result) (a : Nat)
    (h : ∀ p ∈ ps, inb s.cfg p.1 p.2 = true → a ≠ off s.cfg p.1 p.2 ∧ a ≠ off s.cfg p.1 p.2 + 1) :
    ((s.accept.paint ps c).done r).fbByte a = s.fbByte a :=
  State.paint_fbByte_of_notMem s.accept ps c a h

theorem State.done_paint_eq (s : State) (ps : List (Int × Int)) (c : Color) (r : Result) :
    (s.accept.paint ps c).done r = { s.finished r with fb := ((s.accept.paint ps c).done r).fb } := by
  rw [State.paint_eq]; rfl

/-! ### Text -/

theorem mem_textPoints_iff {f : Font} {text : List Byte} {x y i j : Int} :
    (i, j) ∈ textPoints f text x y ↔ textPixel f text x y i j := mem_textPoints

/-- No pixel of a text lies outside exactly when every set pixel lies inside. -/
theorem textInside_iff {c : Config} {text : List Byte} {x y : Int} :
    ((textPoints c.font text x y).all fun p => inb c p.1 p.2) = true ↔
      ∀ i j, textPixel c.font text x y i j → inb c i j = true := by
  simp only [List.all_eq_true]
  constructor
  · intro h i j hi; exact h (i, j) (mem_textPoints_iff.mpr hi)
  · rintro h ⟨i, j⟩ hm; exact h i j (mem_textPoints_iff.mp hm)

/-- A set pixel of a text lies in its bounding box. -/
theorem textPixel_inBox {f : Font} {text : List Byte} {x y i j : Int} (h : textPixel f text x y i j) :
    inBox x y (8 * text.length) 8 i j := by
  obtain ⟨k, col, row, ch, hk, hc, hr, -, rfl, rfl⟩ := h
  have := (List.getElem?_eq_some_iff.mp hk).1
  constructor <;> constructor <;> omega

/-! ### Scaled text (rule R197) -/

/-- The pixels `SCALED_TEXT` records. -/
def recordedPoints (s : State) (text : List Byte) (x y : Int) (c : Color) : List (Int × Int) :=
  (rectPoints s.cfg x y (8 * text.length) 8).filter fun p =>
    decide ((s.paint (textPoints s.cfg.font text x y) c).get p.1 p.2 = some c)

theorem mem_recordedPoints {s : State} {text : List Byte} {x y : Int} {c : Color} {i j : Int} :
    (i, j) ∈ recordedPoints s text x y c ↔ recordedPixel s text x y c i j := by
  simp only [recordedPoints, List.mem_filter, mem_rectPoints, decide_eq_true_eq, State.paint_get,
    mem_textPoints_iff, recordedPixel, inBox]
  constructor
  · rintro ⟨⟨h1, h2, h3⟩, h4⟩
    refine ⟨⟨h1, h2⟩, h3, ?_⟩
    by_cases h : textPixel s.cfg.font text x y i j
    · exact .inl h
    · rw [if_neg (fun e => h (mem_textPoints_iff.mp e.2))] at h4; exact .inr h4
  · rintro ⟨⟨h1, h2⟩, h3, h4⟩
    refine ⟨⟨h1, h2, h3⟩, ?_⟩
    by_cases h : textPixel s.cfg.font text x y i j
    · rw [if_pos ⟨h3, mem_textPoints_iff.mpr h⟩]
    · rw [if_neg (fun e => h (mem_textPoints_iff.mp e.2))]; exact h4.resolve_left h

theorem mem_blockPoints_iff {s : State} {text : List Byte} {x y : Int} {scale : Nat} {c : Color} {u v : Int} :
    (u, v) ∈ blockPoints s.cfg x y scale (recordedPoints s text x y c) ↔
      inb s.cfg u v = true ∧ inSomeBlock s text x y scale c u v := by
  rw [mem_blockPoints]
  refine and_congr_right fun _ => ?_
  constructor
  · rintro ⟨⟨i, j⟩, hp, h1, h2⟩; exact ⟨i, j, mem_recordedPoints.mp hp, h1, h2⟩
  · rintro ⟨i, j, hp, h1, h2⟩; exact ⟨(i, j), mem_recordedPoints.mpr hp, h1, h2⟩

theorem blocksInside_iff {s : State} {text : List Byte} {x y : Int} {scale : Nat} {c : Color} :
    blocksInside s.cfg x y scale (recordedPoints s text x y c) = true ↔
      ∀ u v, inSomeBlock s text x y scale c u v → inb s.cfg u v = true := by
  simp only [blocksInside, List.all_eq_true, rectInside_iff]
  constructor
  · rintro h u v ⟨i, j, hr, h1, h2⟩; exact h (i, j) (mem_recordedPoints.mpr hr) u v h1 h2
  · rintro h ⟨i, j⟩ hr u v h1 h2; exact h u v ⟨i, j, mem_recordedPoints.mp hr, h1, h2⟩

/-- Every pixel the policy of rule R215 looks at lies inside. -/
abbrev scaledInside (s : State) (text : List Byte) (x y : Int) (scale : Nat) (c : Color) : Prop :=
  (∀ i j, textPixel s.cfg.font text x y i j → inb s.cfg i j = true) ∧
    (∀ i j, inBox x y (8 * text.length) 8 i j → inb s.cfg i j = true) ∧
    (∀ u v, inSomeBlock s text x y scale c u v → inb s.cfg u v = true)

/-- The framebuffer `SCALED_TEXT` leaves. -/
def scaledPainted (s : State) (text : List Byte) (x y : Int) (scale : Nat) (c background : Color) : State :=
  ((s.paint (textPoints s.cfg.font text x y) c).paint (textPoints s.cfg.font text x y) background).paint
    (blockPoints s.cfg x y scale (recordedPoints s text x y c)) c

/-- Steps 2 to 5 of `SCALED_TEXT`: the paintings, when the bounds policy does not end it. -/
theorem scaleText_inside {s : State} {text : List Byte} {x y : Int} {scale : Nat} {c background : Color}
    (h : s.cfg.oobPolicy = .clip ∨ scaledInside s text x y scale c) :
    s.scaleText text x y scale c background = (scaledPainted s text x y scale c background).done .ok := by
  unfold State.scaleText
  simp only
  rw [if_neg]
  · rfl
  · rintro ⟨h1, h2⟩
    rcases h with h | ⟨ha, hb, hc⟩
    · simp [h] at h1
    · have e1 := textInside_iff.mpr ha
      have e2 := rectInside_iff.mpr fun i j h1 h2 => hb i j ⟨h1, h2⟩
      have e3 := blocksInside_iff.mpr hc
      simp only [recordedPoints] at e3
      simp [e1, e2, e3] at h2

/-- Steps 2 to 5 of `SCALED_TEXT` ended by the bounds policy. -/
theorem scaleText_outside {s : State} {text : List Byte} {x y : Int} {scale : Nat} {c background : Color}
    (hp : s.cfg.oobPolicy = .reject) (h : ¬ scaledInside s text x y scale c) :
    s.scaleText text x y scale c background = s.boundsViolation := by
  unfold State.scaleText
  simp only
  rw [if_pos]
  refine ⟨hp, ?_⟩
  by_contra he
  rw [Bool.not_eq_false] at he
  simp only [Bool.and_eq_true] at he
  exact h ⟨textInside_iff.mp he.1.1, fun i j h => rectInside_iff.mp he.1.2 i j h.1 h.2, blocksInside_iff.mp he.2⟩

theorem scaledPainted_get (s : State) (text : List Byte) (x y : Int) (scale : Nat) (c background : Color)
    (u v : Int) :
    (scaledPainted s text x y scale c background).get u v =
      if inb s.cfg u v = true ∧ (u, v) ∈ blockPoints s.cfg x y scale (recordedPoints s text x y c) then some c
      else if inb s.cfg u v = true ∧ (u, v) ∈ textPoints s.cfg.font text x y then some background
      else s.get u v := by
  unfold scaledPainted
  simp only [State.paint_get, State.paint_cfg]
  by_cases h : inb s.cfg u v = true ∧ (u, v) ∈ textPoints s.cfg.font text x y
  · simp only [h, and_self, if_true]
  · simp only [h, if_false]

/-- A pixel of a square has the colour. -/
theorem done_scaledPainted_get_block {s : State} {text : List Byte} {x y : Int} {scale : Nat}
    {c background : Color} {r : Result} {u v : Int} (h : inb s.cfg u v = true)
    (hb : inSomeBlock s text x y scale c u v) :
    ((scaledPainted s.accept text x y scale c background).done r).get u v = some c := by
  refine (scaledPainted_get s.accept text x y scale c background u v).trans (if_pos ⟨h, ?_⟩)
  exact (mem_blockPoints_iff (s := s.accept)).mpr ⟨h, hb⟩

/-- A set pixel of the text in no square has the background. -/
theorem done_scaledPainted_get_text {s : State} {text : List Byte} {x y : Int} {scale : Nat}
    {c background : Color} {r : Result} {u v : Int} (h : inb s.cfg u v = true)
    (hb : ¬ inSomeBlock s text x y scale c u v) (ht : textPixel s.cfg.font text x y u v) :
    ((scaledPainted s.accept text x y scale c background).done r).get u v = some background := by
  refine (scaledPainted_get s.accept text x y scale c background u v).trans ((if_neg fun e => ?_).trans (if_pos ⟨h, ?_⟩))
  · exact hb ((mem_blockPoints_iff (s := s.accept)).mp e.2).2
  · exact mem_textPoints_iff.mpr ht

/-- Every other pixel is as before. -/
theorem done_scaledPainted_get_other {s : State} {text : List Byte} {x y : Int} {scale : Nat}
    {c background : Color} {r : Result} {u v : Int} (hb : ¬ inSomeBlock s text x y scale c u v)
    (ht : ¬ textPixel s.cfg.font text x y u v) :
    ((scaledPainted s.accept text x y scale c background).done r).get u v = s.get u v := by
  refine (scaledPainted_get s.accept text x y scale c background u v).trans
    ((if_neg fun e => ?_).trans (if_neg fun e => ?_))
  · exact hb ((mem_blockPoints_iff (s := s.accept)).mp e.2).2
  · exact ht (mem_textPoints_iff.mp e.2)

theorem scaledPainted_fbByte_of_notMem (s : State) (text : List Byte) (x y : Int) (scale : Nat)
    (c background : Color) (a : Nat)
    (h : ∀ p, p ∈ blockPoints s.cfg x y scale (recordedPoints s text x y c) ∨
        p ∈ textPoints s.cfg.font text x y →
      inb s.cfg p.1 p.2 = true → a ≠ off s.cfg p.1 p.2 ∧ a ≠ off s.cfg p.1 p.2 + 1) :
    (scaledPainted s text x y scale c background).fbByte a = s.fbByte a := by
  unfold scaledPainted
  rw [State.paint_fbByte_of_notMem _ _ _ _ fun p hp => ?_, State.paint_fbByte_of_notMem _ _ _ _ fun p hp => ?_,
    State.paint_fbByte_of_notMem _ _ _ _ fun p hp => h p (.inr hp)]
  · rw [State.paint_cfg]; exact h p (.inr hp)
  · rw [State.paint_cfg, State.paint_cfg]; exact h p (.inl hp)

/-- `SCALED_TEXT` writes the framebuffer and nothing else beyond what every operation does. -/
theorem done_scaledPainted_eq (s : State) (text : List Byte) (x y : Int) (scale : Nat) (c background : Color)
    (r : Result) :
    (scaledPainted s.accept text x y scale c background).done r =
      { s.finished r with fb := ((scaledPainted s.accept text x y scale c background).done r).fb } := by
  unfold scaledPainted
  rw [State.paint_eq ((s.accept.paint _ c).paint _ background), State.paint_eq (s.accept.paint _ c),
    State.paint_eq s.accept]
  rfl

end Sys2Proof.Machine
end

