-- ==== Sys2Proof/Laws/Inert.lean ====
section
/-! SUPPORT. Changes of the state that the micro-steps do not see: whatever commutes with every micro-step
commutes with every sub-sequence. -/

namespace Sys2Proof.Machine

/-- A run of micro-steps with its state changed. -/
def Flow.map (f : State → State) : Flow → Flow
  | .going s => .going (f s)
  | .failed s => .failed (f s)

theorem Flow.map_thenDo {f : State → State} {F : Flow} {g : State → State} (hg : ∀ s, g (f s) = f (g s)) :
    (F.map f).thenDo g = (F.thenDo g).map f := by
  cases F <;> simp only [Flow.map, Flow.going_thenDo, Flow.failed_thenDo, hg]

theorem Flow.map_andThen {f : State → State} {F : Flow} {g : State → Flow} (hg : ∀ s, g (f s) = (g s).map f) :
    (F.map f).andThen g = (F.andThen g).map f := by
  cases F <;> simp only [Flow.map, Flow.going_andThen, Flow.failed_andThen, hg]

/-- The change `f` of the state is not seen by any micro-step. -/
structure Inert (f : State → State) : Prop where
  cfg : ∀ s, (f s).cfg = s.cfg
  busy : ∀ s, (f s).busy = s.busy
  phase : ∀ s, (f s).phase = s.phase
  fbByte : ∀ s a, (f s).fbByte a = s.fbByte a
  ptr : ∀ s, (f s).ptr = s.ptr
  nextDraw : ∀ s, (f s).nextDraw = s.nextDraw
  accept : ∀ s, (f s).accept = f s.accept
  emitRst : ∀ s l, (f s).emitRst l = f (s.emitRst l)
  emitCs : ∀ s l, (f s).emitCs l = f (s.emitCs l)
  emitDc : ∀ s d, (f s).emitDc d = f (s.emitDc d)
  wait : ∀ s n, (f s).wait n = f (s.wait n)
  nextStep : ∀ s, (f s).nextStep = f s.nextStep
  enter : ∀ s, (f s).enter = f s.enter
  leave : ∀ s, (f s).leave = f s.leave
  openData : ∀ s, (f s).openData = f s.openData
  nextByte : ∀ s, (f s).nextByte = f s.nextByte
  drawn : ∀ s, (f s).drawn = f s.drawn
  sent : ∀ s b, (f s).sent b = f (s.sent b)
  put : ∀ s p c, (f s).put p c = f (s.put p c)
  fillAll : ∀ s c, (f s).fillAll c = f (s.fillAll c)

namespace Inert

variable {f : State → State} (hf : Inert f)
include hf

theorem tx (b : Byte) (s : State) : Machine.tx b (f s) = (Machine.tx b s).map f := by
  simp only [Machine.tx, hf.nextDraw]
  split <;> simp only [Flow.map, hf.drawn, hf.sent]

theorem sendBlob (bs : List Byte) (s : State) : Machine.sendBlob bs (f s) = (Machine.sendBlob bs s).map f := by
  induction bs generalizing s with
  | nil => rfl
  | cons b bs ih =>
    simp only [Machine.sendBlob, hf.tx]
    exact Flow.map_andThen fun s => by rw [hf.nextByte, ih]

theorem sendFb (n : Nat) (s : State) : Machine.sendFb n (f s) = (Machine.sendFb n s).map f := by
  induction n generalizing s with
  | zero => rfl
  | succ n ih =>
    simp only [Machine.sendFb, hf.fbByte, hf.ptr, hf.tx]
    exact Flow.map_andThen fun s => by rw [hf.nextByte, ih]

theorem dataFrame {send : State → Flow} (h : ∀ s, send (f s) = (send s).map f) (s : State) :
    Machine.dataFrame send (f s) = (Machine.dataFrame send s).map f := by
  simp only [Machine.dataFrame, hf.emitCs, hf.nextStep, hf.emitDc, hf.openData, h]
  exact Flow.map_thenDo fun s => by rw [hf.nextStep, hf.emitCs]

theorem call {body : State → Flow} (h : ∀ s, body (f s) = (body s).map f) (s : State) :
    Machine.call body (f s) = (Machine.call body s).map f := by
  simp only [Machine.call, hf.enter, h]
  exact Flow.map_thenDo hf.leave

theorem writeCommandBody (b : Byte) (s : State) :
    Machine.writeCommandBody b (f s) = (Machine.writeCommandBody b s).map f := by
  simp only [Machine.writeCommandBody, hf.emitCs, hf.nextStep, hf.emitDc, hf.tx]
  exact Flow.map_thenDo fun s => by rw [hf.nextStep, hf.emitCs]

theorem writeDataBody (bs : List Byte) (s : State) :
    Machine.writeDataBody bs (f s) = (Machine.writeDataBody bs s).map f :=
  hf.dataFrame (hf.sendBlob bs) s

theorem sendByte (w : WireByte) (s : State) : Machine.sendByte w (f s) = (Machine.sendByte w s).map f := by
  obtain ⟨d, b⟩ := w
  cases d
  · exact hf.call (hf.writeCommandBody b) s
  · exact hf.call (hf.writeDataBody [b]) s

theorem sendBytes (ws : List WireByte) (s : State) :
    Machine.sendBytes ws (f s) = (Machine.sendBytes ws s).map f := by
  induction ws generalizing s with
  | nil => rfl
  | cons w ws ih =>
    simp only [Machine.sendBytes, hf.sendByte]
    exact Flow.map_andThen fun s => by rw [hf.nextStep, ih]

theorem flushBody (s : State) : Machine.flushBody (f s) = (Machine.flushBody s).map f := by
  unfold Machine.flushBody
  rw [hf.call (fun s => by unfold fullWindowBody; rw [hf.cfg, hf.sendBytes]), Flow.map_thenDo hf.nextStep]
  exact Flow.map_andThen fun s => by rw [hf.cfg, hf.call (hf.dataFrame (hf.sendFb _)), Flow.map_thenDo hf.nextStep]

theorem fillScreenBody (c : Color) (s : State) :
    Machine.fillScreenBody c (f s) = (Machine.fillScreenBody c s).map f := by
  unfold Machine.fillScreenBody
  rw [hf.fillAll, hf.nextStep, hf.call hf.flushBody, Flow.map_thenDo hf.nextStep]

theorem pulseResetBody (s : State) : Machine.pulseResetBody (f s) = f (Machine.pulseResetBody s) := by
  simp only [Machine.pulseResetBody, hf.emitRst, hf.nextStep, hf.wait, hf.cfg]
  split <;> simp only [hf.nextStep]

theorem get (s : State) (x y : Int) : (f s).get x y = s.get x y := by
  simp only [State.get, hf.cfg, hf.fbByte]

theorem paint (ps : List (Int × Int)) (c : Color) (s : State) : (f s).paint ps c = f (s.paint ps c) := by
  induction ps generalizing s with
  | nil => rfl
  | cons p ps ih => rw [State.paint_cons, State.paint_cons, hf.put, ih]

end Inert

/-- An instruction run from a state and from its change by `f` stops the same way or answers two states
related by `R`, when `R` relates what every ending makes of a state and of its change. `P` relates the
values of `CTRL` the two runs conclude with. -/
theorem exec_related {f : State → State} (hf : Inert f) (R : State → State → Prop) (P : Ctrl → Ctrl → Prop)
    (hP : ∀ s (g : Ctrl → Ctrl), P (g s.ctrl) (g (f s).ctrl)) (hP' : ∀ c, P c c)
    (hsent : ∀ s c c', P c c' → R ((s.setCtrl c).done .ok) (((f s).setCtrl c').done .ok))
    (hdone : ∀ s r, R (s.done r) ((f s).done r)) (habort : ∀ s p, R (s.abort p) ((f s).abort p))
    (hraise : ∀ s e, R (s.raise e) ((f s).raise e))
    (hbounds : ∀ s, R s.boundsViolation (f s).boundsViolation)
    (hnew : ∀ s : State, R ((newBody s.accept).conclude .configured .failed)
      ((newBody (f s).accept).conclude .configured .failed)) (i : Instr) (s : State) :
    (exec i s = .fault .requestWhileBusy ∧ exec i (f s) = .fault .requestWhileBusy) ∨
      ∃ t u, exec i s = .next t ∧ exec i (f s) = .next u ∧ R t u := by
  have adm : ∀ run run' : State → State, (∀ s, R (run s) (run' (f s))) →
      (onDriverRequest s run = .fault .requestWhileBusy ∧ onDriverRequest (f s) run' = .fault .requestWhileBusy) ∨
        ∃ t u, onDriverRequest s run = .next t ∧ onDriverRequest (f s) run' = .next u ∧ R t u := by
    intro run run' h
    cases hb : s.busy
    · right
      simp only [onDriverRequest, onRequest, hb, hf.busy, hf.phase]
      refine ⟨_, _, rfl, rfl, ?_⟩
      split
      · exact h s
      · exact hraise _ _
    · left; simp [onDriverRequest, onRequest, hb, hf.busy]
  have trn : ∀ (body : State → Flow) (c c' : Ctrl), P c c' → (∀ s, body (f s) = (body s).map f) →
      (transmit s body c = .fault .requestWhileBusy ∧ transmit (f s) body c' = .fault .requestWhileBusy) ∨
        ∃ t u, transmit s body c = .next t ∧ transmit (f s) body c' = .next u ∧ R t u := by
    intro body c c' hc h
    refine adm _ _ fun s => ?_
    rw [hf.accept, h]
    cases body s.accept
    · exact hsent _ _ _ hc
    · exact habort _ _
  have fbo : ∀ (b : Bool) (run : State → State), (∀ s : State, R (run s.accept) (run (f s.accept))) →
      (framebufferOp s b run = .fault .requestWhileBusy ∧ framebufferOp (f s) b run = .fault .requestWhileBusy) ∨
        ∃ t u, framebufferOp s b run = .next t ∧ framebufferOp (f s) b run = .next u ∧ R t u := by
    intro b run h
    refine adm _ _ fun s => ?_
    rw [hf.cfg, hf.accept]
    split
    · exact hbounds _
    · exact h _
  cases i <;> simp only [exec, execWriteCommand, execWriteData, execPulseReset, execInitController,
    execSetFullWindow, execSetWindow, execSetPixel, execGetPixel, execFill, execFillRect, execRect,
    execDrawText, execScaledText, execNewDriver, execFlush, execFillScreen, execWDisplayOn,
    execWAddrModeSetup, execWMemAddrMode, execWMuxRatio, execWDisplayOffset, execWClockDiv, execWPrecharge,
    execWComPins, execWVcomh, execWSegRemap, execWFullCol, execWFullRow, execWRamwrFull, execWWinCol,
    execWWinRow, execWRamwrWin, wireOp, hf.cfg]
  case writeCommand b => exact trn _ _ _ (hP s (ctrlAfterCommand b)) (hf.writeCommandBody b)
  case writeData b => exact trn _ _ _ (hP s ctrlAfterData) (hf.writeDataBody b)
  case pulseReset => exact adm _ _ fun s => by rw [hf.accept, hf.pulseResetBody]; exact hsent _ _ _ (hP' _)
  case initController =>
    exact trn _ _ _ (hP s ctrlInitialized) fun s => by unfold initializeBody; rw [hf.cfg, hf.sendBytes]
  case setFullWindow =>
    exact trn _ _ _ (hP s ctrlOpened) fun s => by unfold fullWindowBody; rw [hf.cfg, hf.sendBytes]
  case setWindow => exact trn _ _ _ (hP s (ctrlAfterWindow _)) fun s => by rw [hf.cfg, hf.sendBytes]
  case flush => exact trn _ _ _ (hP s ctrlOpened) hf.flushBody
  case fillScreen c => exact trn _ _ _ (hP s ctrlOpened) (hf.fillScreenBody c)
  case setPixel x y c => exact fbo _ _ fun s => by rw [hf.put]; exact hdone _ _
  case getPixel x y => exact fbo _ _ fun s => by rw [hf.get]; split <;> exact hdone _ _
  case fill c => exact fbo _ _ fun s => by rw [hf.fillAll]; exact hdone _ _
  case fillRect => exact fbo _ _ fun s => by rw [hf.cfg, hf.paint]; exact hdone _ _
  case rect => exact fbo _ _ fun s => by rw [hf.cfg, hf.paint]; exact hdone _ _
  case drawText => exact fbo _ _ fun s => by rw [hf.cfg, hf.paint]; exact hdone _ _
  case scaledText text x y scale c =>
    refine adm _ _ fun s => ?_
    rw [hf.get]
    split
    · exact hraise _ _
    · rw [hf.accept]
      unfold State.scaleText
      simp only [hf.cfg, hf.paint, hf.get]
      split
      · exact hbounds _
      · exact hdone _ _
  case newDriver =>
    cases hb : s.busy
    · right
      simp only [onRequest, hb, hf.busy]
      exact ⟨_, _, rfl, rfl, hnew s⟩
    · left; simp [onRequest, hb, hf.busy]
  all_goals exact trn _ _ _ (hP s (ctrlAfterCommand _)) (hf.sendBytes _)

end Sys2Proof.Machine
end

