-- ==== Sys2Proof/Laws/Outcomes.lean ====
section
/-! SUPPORT. What an instruction can answer, said once: the frame grammar of rule R125 over the events the
sub-sequences emit, what a run of micro-steps that transmits may change, and every way an instruction
can end. -/

namespace Sys2Proof.Machine

/-! ### The frame grammar (rule R125) -/

theorem frameRun_append (f : FrameState) (es es' : List Event) :
    frameRun f (es ++ es') = (frameRun f es).bind fun g => frameRun g es' := by
  induction es generalizing f with
  | nil => rfl
  | cons e es ih =>
    simp only [List.cons_append, frameRun]
    cases frameStep f e with
    | none => rfl
    | some g => exact ih g

theorem frameRun_framesOf (ws : List WireByte) : frameRun .outside (framesOf ws) = some .outside := by
  induction ws with
  | nil => rfl
  | cons w ws ih =>
    rw [framesOf, List.flatMap_cons, frameRun_append]
    exact ih

theorem frameRun_map_tx (bs : List Byte) : frameRun .inside (bs.map .tx) = some .inside := by
  induction bs with
  | nil => rfl
  | cons b bs ih => exact ih

theorem frameRun_resetPulseOf (c : Config) : frameRun .outside (resetPulseOf c) = some .outside := by
  unfold resetPulseOf; split <;> rfl

theorem txFail_notMem_framesOf (ws : List WireByte) : Event.txFail ∉ framesOf ws := by
  simp [framesOf, frameOf]

theorem txFail_notMem_map_tx (bs : List Byte) : Event.txFail ∉ bs.map Event.tx := by simp

theorem txFail_notMem_resetPulseOf (c : Config) : Event.txFail ∉ resetPulseOf c := by
  unfold resetPulseOf; split <;> simp

/-- The level of the reset line after the events, from the level before them. -/
def rstLine (p : Pin RstLevel) (es : List Event) : Pin RstLevel :=
  es.foldl (fun p e => match e with | .rst l => .driven l | _ => p) p

/-- The level of the chip-select line after the events, from the level before them. -/
def csLine (p : Pin CsLevel) (es : List Event) : Pin CsLevel :=
  es.foldl (fun p e => match e with | .cs l => .driven l | _ => p) p

/-- The level of the data/command line after the events, from the level before them. -/
def dcLine (p : Pin DcClass) (es : List Event) : Pin DcClass :=
  es.foldl (fun p e => match e with | .dc d => .driven d | _ => p) p

theorem lastRst_append (es es' : List Event) : lastRst (es ++ es') = rstLine (lastRst es) es' := List.foldl_append
theorem lastCs_append (es es' : List Event) : lastCs (es ++ es') = csLine (lastCs es) es' := List.foldl_append
theorem lastDc_append (es es' : List Event) : lastDc (es ++ es') = dcLine (lastDc es) es' := List.foldl_append

theorem csLine_append (p : Pin CsLevel) (es es' : List Event) :
    csLine p (es ++ es') = csLine (csLine p es) es' := List.foldl_append

theorem dcLine_append (p : Pin DcClass) (es es' : List Event) :
    dcLine p (es ++ es') = dcLine (dcLine p es) es' := List.foldl_append

theorem rstLine_append (p : Pin RstLevel) (es es' : List Event) :
    rstLine p (es ++ es') = rstLine (rstLine p es) es' := List.foldl_append

theorem rstLine_framesOf (ws : List WireByte) (p : Pin RstLevel) : rstLine p (framesOf ws) = p := by
  induction ws generalizing p with
  | nil => rfl
  | cons w ws ih => rw [framesOf, List.flatMap_cons, rstLine_append]; exact ih p

theorem rstLine_map_tx (bs : List Byte) (p : Pin RstLevel) : rstLine p (bs.map .tx) = p := by
  induction bs with
  | nil => rfl
  | cons b bs ih => exact ih

theorem csLine_framesOf (ws : List WireByte) (p : Pin CsLevel) : csLine p (framesOf ws) = csAfter ws p := by
  induction ws generalizing p with
  | nil => rfl
  | cons w ws ih =>
    rw [framesOf, List.flatMap_cons, csLine_append, csAfter_cons]
    exact ih _

theorem dcLine_framesOf (ws : List WireByte) (p : Pin DcClass) : dcLine p (framesOf ws) = dcAfter ws p := by
  induction ws generalizing p with
  | nil => rfl
  | cons w ws ih =>
    rw [framesOf, List.flatMap_cons, dcLine_append, dcAfter_cons]
    exact ih _

theorem csLine_map_tx (bs : List Byte) (p : Pin CsLevel) : csLine p (bs.map .tx) = p := by
  induction bs with
  | nil => rfl
  | cons b bs ih => exact ih

theorem dcLine_map_tx (bs : List Byte) (p : Pin DcClass) : dcLine p (bs.map .tx) = p := by
  induction bs with
  | nil => rfl
  | cons b bs ih => exact ih

theorem lines_resetPulseOf (c : Config) (p : Pin RstLevel) (q : Pin CsLevel) (r : Pin DcClass) :
    rstLine p (resetPulseOf c) = .driven .high ∧ csLine q (resetPulseOf c) = q ∧
      dcLine r (resetPulseOf c) = r := by
  unfold resetPulseOf; split <;> exact ⟨rfl, rfl, rfl⟩

/-- Chip-select is inactive after events that close every frame, if it was before them. -/
theorem csLine_closed {f : FrameState} {es : List Event} {p : Pin CsLevel} (h : frameRun f es = some .outside)
    (hp : f = .outside → p = .driven .inactive) : csLine p es = .driven .inactive := by
  induction es generalizing f p with
  | nil => simp only [frameRun, Option.some.injEq] at h; exact hp h
  | cons e es ih =>
    simp only [frameRun] at h
    cases hg : frameStep f e with
    | none => simp [hg] at h
    | some g =>
      simp only [hg] at h
      refine ih h fun e1 => ?_
      subst e1
      cases f <;> cases e <;> simp_all [frameStep] <;> rename_i l <;> cases l <;> simp_all

/-! ### Runs of micro-steps that transmit -/

/-- What transmitting the events `es` may change. -/
structure Sent (s t : State) (es : List Event) : Prop where
  only : t = { s with
    draws := t.draws, drawCount := t.drawCount, ptr := t.ptr, seq := t.seq, trace := s.trace ++ es,
    cs := csLine s.cs es, dc := dcLine s.dc es }
  rst : rstLine s.rst es = s.rst
  noFailure : Event.txFail ∉ es

/-- Everything a run of micro-steps that transmits can answer, `depth` being the nesting levels it may
leave behind at a failure: whole frames, or whole frames and one left open at the failing byte. -/
def Transmits (depth : Nat) (s : State) : Flow → Prop
  | .going t => ∃ es, Sent s t es ∧ frameRun .outside es = some .outside ∧ t.seq.length = s.seq.length
  | .failed t => ∃ es, Sent s t es ∧ frameRun .outside es = some .inside ∧
      s.seq.length ≤ t.seq.length ∧ t.seq.length ≤ s.seq.length + depth

theorem writeCommandBody_transmits (b : Byte) {s : State} (hseq : s.seq ≠ []) :
    Transmits 0 s (writeCommandBody b s) := by
  obtain ⟨k, ks, hk⟩ := List.exists_cons_of_ne_nil hseq
  cases h : s.drawAt 0 with
  | true =>
    rw [writeCommandBody_going hk h]
    exact ⟨_, ⟨rfl, rfl, txFail_notMem_framesOf [(.cmd, b)]⟩, rfl, by simp [hk]⟩
  | false =>
    rw [writeCommandBody_failed hk h]
    exact ⟨[.cs .active, .dc .cmd], ⟨rfl, rfl, by simp⟩, rfl, by simp [hk], by simp [hk]⟩

theorem writeDataBody_transmits (bs : List Byte) {s : State} (hseq : s.seq ≠ []) :
    Transmits 0 s (writeDataBody bs s) := by
  obtain ⟨k, ks, hk⟩ := List.exists_cons_of_ne_nil hseq
  rcases noTxFails_or s bs.length with h | ⟨n, hn, h⟩
  · rw [writeDataBody_going hk h]
    refine ⟨dataFrameOf bs, ⟨?_, ?_, by simp [dataFrameOf]⟩, ?_, by simp [hk]⟩
    · simp only [dataFrameOf, csLine_append, dcLine_append, csLine_map_tx, dcLine_map_tx]
      simp [csLine, dcLine, State.drawnBy]
    · simp only [dataFrameOf, rstLine_append, rstLine_map_tx]; rfl
    · simp only [dataFrameOf, frameRun_append]
      simp [frameRun, frameStep, frameRun_map_tx]
  · rw [writeDataBody_failed hk hn h]
    refine ⟨[.cs .active, .dc .data] ++ (bs.take n).map .tx,
      ⟨?_, ?_, by simp [-List.map_take, txFail_notMem_map_tx]⟩, ?_, by simp [hk], by simp [hk]⟩
    · simp only [csLine_append, dcLine_append, csLine_map_tx, dcLine_map_tx]
      simp [csLine, dcLine, State.drawnBy]
    · simp only [rstLine_append, rstLine_map_tx]; rfl
    · simp only [frameRun_append]
      simp only [frameRun, frameStep, Option.bind_some]
      exact frameRun_map_tx _

theorem sent_framesOf_cut (ws : List WireByte) (d : DcClass) (s : State) (dr : List Bool) (n p : Nat)
    (q : List Nat) :
    Sent s { s with
      draws := dr, drawCount := n, ptr := p, seq := q,
      trace := s.trace ++ framesOf ws ++ [.cs .active, .dc d], cs := .driven .active, dc := .driven d }
      (framesOf ws ++ [.cs .active, .dc d]) ∧
      frameRun .outside (framesOf ws ++ [.cs .active, .dc d]) = some .inside := by
  refine ⟨⟨?_, ?_, ?_⟩, ?_⟩
  · rw [csLine_append, dcLine_append, ← List.append_assoc]; rfl
  · rw [rstLine_append, rstLine_framesOf]; rfl
  · simp [txFail_notMem_framesOf]
  · rw [frameRun_append, frameRun_framesOf]; rfl

theorem sendBytes_transmits (ws : List WireByte) {s : State} (hseq : s.seq ≠ []) :
    Transmits 1 s (sendBytes ws s) := by
  obtain ⟨k, ks, hk⟩ := List.exists_cons_of_ne_nil hseq
  rcases noTxFails_or s ws.length with h | ⟨n, hn, h⟩
  · rw [sendBytes_going hk h]
    refine ⟨framesOf ws, ⟨?_, rstLine_framesOf _ _, txFail_notMem_framesOf _⟩, frameRun_framesOf _, by simp [hk]⟩
    simp [csLine_framesOf, dcLine_framesOf, State.framesSent, State.drawnBy]
  · rw [sendBytes_failed hk (List.getElem?_eq_getElem hn) h]
    have := sent_framesOf_cut (ws.take n) ws[n].1 s
    exact ⟨_, (this _ _ _ _).1, (this [] 0 0 []).2, by simp [hk], by simp [hk]⟩

theorem Sent.trans {s t u : State} {es es' : List Event} (h : Sent s t es) (h' : Sent t u es') :
    Sent s u (es ++ es') := by
  refine ⟨?_, ?_, by simp [h.noFailure, h'.noFailure]⟩
  · have e := h'.only
    rw [h.only] at e
    rw [e]
    simp [csLine_append, dcLine_append]
  · have hr : t.rst = s.rst := by rw [h.only]
    have e := h'.rst
    rw [hr] at e
    rw [rstLine_append, h.rst, e]

/-- The same events sent from a state that differs in the sequencer alone. -/
theorem Sent.of_seq {s t : State} {es : List Event} (q : List Nat) (p : Nat) (h : Sent { s with seq := q, ptr := p } t es) :
    Sent s t es := ⟨by rw [h.only], h.rst, h.noFailure⟩

theorem flushBody_transmits {s : State} (hseq : s.seq ≠ []) : Transmits 2 s (flushBody s) := by
  obtain ⟨k, ks, hk⟩ := List.exists_cons_of_ne_nil hseq
  rcases noTxFails_or s 7 with h | ⟨n, hn, h⟩
  · rcases noTxFails_or s (7 + s.cfg.fbLen) with h' | ⟨n, hn, h'⟩
    · rw [flushBody_going hk h']
      refine ⟨framesOf (fullWindowBytes s.cfg) ++ dataFrameOf s.fbBytes, ⟨?_, ?_, ?_⟩, ?_, by simp [hk]⟩
      · simp only [dataFrameOf, csLine_append, dcLine_append, csLine_map_tx, dcLine_map_tx]
        simp [csLine, dcLine, State.drawnBy]
      · simp only [dataFrameOf, rstLine_append, rstLine_map_tx, rstLine_framesOf]; rfl
      · simp [txFail_notMem_framesOf, dataFrameOf]
      · simp only [dataFrameOf, frameRun_append, frameRun_framesOf]
        simp [frameRun, frameStep, frameRun_map_tx]
    · have h7 : 7 ≤ n := by
        by_contra hlt
        have := h n (by omega)
        rw [h'.2] at this; exact absurd this (by simp)
      obtain ⟨m, rfl⟩ := Nat.exists_eq_add_of_le h7
      rw [flushBody_failed_stream hk (by omega) h']
      refine ⟨framesOf (fullWindowBytes s.cfg) ++ ([.cs .active, .dc .data] ++ (s.fbBytes.take m).map .tx),
        ⟨?_, ?_, ?_⟩, ?_, by simp [hk], by simp [hk]⟩
      · simp only [csLine_append, dcLine_append, csLine_map_tx, dcLine_map_tx]
        simp [csLine, dcLine, State.drawnBy]
      · simp only [rstLine_append, rstLine_map_tx, rstLine_framesOf]; rfl
      · simp [-List.map_take, txFail_notMem_framesOf, txFail_notMem_map_tx]
      · simp only [frameRun_append, frameRun_framesOf, Option.bind_some, frameRun, frameStep, frameRun_map_tx]
  · have hw := List.getElem?_eq_getElem (l := fullWindowBytes s.cfg) (i := n) (by simpa using hn)
    rw [flushBody_failed_window hw h]
    have := sent_framesOf_cut ((fullWindowBytes s.cfg).take n) (fullWindowBytes s.cfg)[n].1 s
    exact ⟨_, (this _ _ _ _).1, (this [] 0 0 []).2,
      by simp only [List.length_cons]; omega, by simp only [List.length_cons]; omega⟩

/-- `FILL_SCREEN` transmits from the filled buffer. -/
theorem fillScreenBody_transmits (c : Color) {s : State} (hseq : s.seq ≠ []) :
    Transmits 3 (s.fillAll c) (fillScreenBody c s) := by
  obtain ⟨k, ks, hk⟩ := List.exists_cons_of_ne_nil hseq
  have h := flushBody_transmits (s := ((s.fillAll c).nextStep).enter) (by simp [State.enter])
  unfold fillScreenBody call
  generalize flushBody ((s.fillAll c).nextStep).enter = f at h
  cases f with
  | going t =>
    obtain ⟨es, h1, h2, h3⟩ := h
    have e := (h1.of_seq (s := s.fillAll c) _ _).only
    refine ⟨es, ⟨?_, h1.rst, h1.noFailure⟩, h2, ?_⟩
    · rw [e]; rfl
    · simp only [State.enter, State.nextStep, State.leave, State.fillAll_seq, List.length_cons, hk] at h3 ⊢
      cases ht : t.seq with
      | nil => simp [ht] at h3
      | cons a as =>
        rw [ht] at h3
        cases as with
        | nil => simp at h3
        | cons b bs => simpa using h3
  | failed t =>
    obtain ⟨es, h1, h2, h3, h4⟩ := h
    refine ⟨es, h1.of_seq (s := s.fillAll c) _ _, h2, ?_, ?_⟩
    · simp [State.enter, State.nextStep, hk] at h3 ⊢; omega
    · simp [State.enter, State.nextStep, hk] at h4 ⊢; omega

/-! ### How an instruction ends -/

/-- The state from which an accepted instruction transmits. -/
def startOf (i : Instr) (s : State) : State :=
  match i with
  | .newDriver => s.accept.poweredUp
  | .fillScreen c => s.accept.fillAll c
  | _ => s.accept

/-- The seven framebuffer operations (rules R191 to R197). -/
def isDrawing : Instr → Bool
  | .setPixel _ _ _ | .getPixel _ _ | .fill _ | .fillRect _ _ _ _ _ | .rect _ _ _ _ _
  | .drawText _ _ _ _ | .scaledText _ _ _ _ _ => true
  | _ => false

/-- They are the host codes 0x20 to 0x26 (rule R93). -/
theorem isDrawing_iff (i : Instr) :
    isDrawing i = true ↔ i.space = .host ∧ 0x20 ≤ i.opcode.toNat ∧ i.opcode.toNat ≤ 0x26 := by
  cases i <;> simp [isDrawing, Instr.space, Instr.opcode]

/-- Every way an instruction can end. -/
inductive Ends (i : Instr) (s : State) : State → Prop
  /-- turned away at acceptance (rules R216, R218) -/
  | turnedAway (e : Exc) (he : e = .badOperand ∨ e = .notConstructed) (hi : i ≠ .newDriver) : Ends i s (s.raise e)
  /-- ended by the bounds policy (rule R215) -/
  | outside (hw : isDrawing i = true) (hc : constructed s.phase = true) : Ends i s s.accept.boundsViolation
  /-- a framebuffer operation (rules R191 to R197) -/
  | drew (fb : List Host.Cell) (r : Result) (hw : isDrawing i = true) (hc : constructed s.phase = true)
      (hwf : Memory.wf s.fb → Memory.wf fb)
      (hin : Memory.within s.cfg.fbLen s.fb → Memory.within s.cfg.fbLen fb) :
      Ends i s (({ s.accept with fb := fb } : State).done r)
  /-- the reset pulse (rule R123) -/
  | pulsed (hi : i = .pulseReset) (hc : constructed s.phase = true) :
      Ends i s (((pulseResetBody s.accept).setCtrl .reset).done .ok)
  /-- an operation none of whose bytes failed -/
  | sent (t : State) (es : List Event) (c : Ctrl) (h : Sent (startOf i s) t es)
      (hf : frameRun .outside es = some .outside) (hw : isDrawing i = false)
      (hc : i ≠ .newDriver → constructed s.phase = true)
      (hn : i = .newDriver → es = framesOf s.cfg.initTable) : Ends i s ((t.setCtrl c).done .ok)
  /-- an operation stopped at a failed byte (rule R214) -/
  | failed (t : State) (es : List Event) (h : Sent (startOf i s) t es)
      (hf : frameRun .outside es = some .inside) (h1 : 1 ≤ t.seq.length) (h4 : t.seq.length ≤ 4)
      (hw : isDrawing i = false) (hc : i ≠ .newDriver → constructed s.phase = true) : Ends i s (t.abort (if i = .newDriver then .failed else .idle))

theorem Transmits.ends {d : Nat} {i : Instr} {s : State} {f : Flow} {c : Ctrl}
    (h : Transmits d (startOf i s) f) (h1 : (startOf i s).seq.length = 1) (hd : d ≤ 3) (hi : i ≠ .newDriver)
    (hw : isDrawing i = false) (hc : constructed s.phase = true) : Ends i s (f.conclude c .idle) := by
  cases f with
  | going t => obtain ⟨es, h2, h3, h4⟩ := h; exact .sent t es c h2 h3 hw (fun _ => hc) (fun e => absurd e hi)
  | failed t =>
    obtain ⟨es, h2, h3, h4, h5⟩ := h
    have := Ends.failed (i := i) t es h2 h3 (by omega) (by omega) hw (fun _ => hc)
    rwa [if_neg hi] at this

theorem newDriver_ends (s : State) : Ends .newDriver s ((newBody s.accept).conclude .configured .failed) := by
  rcases noTxFails_or s.accept s.accept.cfg.initTable.length with h | ⟨n, hn, h⟩
  · rw [newBody_going rfl h]
    refine .sent _ (framesOf s.cfg.initTable) _ ⟨?_, rstLine_framesOf _ _, txFail_notMem_framesOf _⟩
      (frameRun_framesOf _) rfl (fun e => absurd rfl e) (fun _ => rfl)
    simp [startOf, csLine_framesOf, dcLine_framesOf, State.framesSent, State.drawnBy, State.poweredUp]
  · rw [newBody_failed rfl (List.getElem?_eq_getElem hn) h]
    have := sent_framesOf_cut (s.cfg.initTable.take n) s.cfg.initTable[n].1 (startOf .newDriver s)
    exact .failed _ _ (this _ _ _ _).1 (this [] 0 0 []).2 (by simp) (by simp) rfl (fun e => absurd rfl e)

theorem onDriverRequest_ends {i : Instr} {s t : State} {run : State → State} (hi : i ≠ .newDriver)
    (hr : s.busy = false → constructed s.phase = true → Ends i s (run s)) (h : onDriverRequest s run = .next t) :
    s.busy = false ∧ Ends i s t := by
  rcases onDriverRequest_cases s run with ⟨hb, e⟩ | ⟨hb, hc, e⟩ | ⟨hb, hc, e⟩ <;> rw [e] at h <;> simp at h <;> subst h
  · exact ⟨hb, .turnedAway _ (.inr rfl) hi⟩
  · exact ⟨hb, hr hb hc⟩

theorem transmit_ends {i : Instr} {s t : State} {body : State → Flow} {c : Ctrl} {d : Nat}
    (hi : i ≠ .newDriver) (hw : isDrawing i = false) (hd : d ≤ 3) (h1 : (startOf i s).seq.length = 1)
    (hT : Transmits d (startOf i s) (body s.accept)) (h : transmit s body c = .next t) :
    s.busy = false ∧ Ends i s t :=
  onDriverRequest_ends hi (fun _ hc => hT.ends h1 hd hi hw hc) h

theorem framebufferOp_ends {i : Instr} {s t : State} {inside : Bool} {run : State → State}
    (hw : isDrawing i = true) (hr : constructed s.phase = true → Ends i s (run s.accept))
    (h : framebufferOp s inside run = .next t) :
    s.busy = false ∧ Ends i s t := by
  refine onDriverRequest_ends (fun e => by subst e; simp [isDrawing] at hw) (fun _ hc => ?_) h
  split
  · exact .outside hw hc
  · exact hr hc

theorem paint_ends {i : Instr} {s : State} (hw : isDrawing i = true) (hc : constructed s.phase = true) (ps : List (Int × Int)) (c : Color) :
    Ends i s ((s.accept.paint ps c).done .ok) := by
  rw [State.paint_eq]
  exact .drew _ _ hw hc (fun h => State.paint_wf (s := s.accept) ps c h)
    (fun h => State.paint_within (s := s.accept) ps c h)

theorem scaleText_ends {i : Instr} {s : State} (hw : isDrawing i = true) (hc : constructed s.phase = true) (text : List Byte) (x y : Int)
    (scale : Nat) (c background : Color) : Ends i s (s.accept.scaleText text x y scale c background) := by
  unfold State.scaleText
  simp only
  split
  · exact .outside hw hc
  · generalize hu : (s.accept.paint _ c).paint _ background = u
    generalize blockPoints _ _ _ _ _ = ps
    have hcfg : u.cfg = s.cfg := by rw [← hu]; simp
    have he : u.paint ps c = { s.accept with fb := (u.paint ps c).fb } := by
      rw [State.paint_eq u, ← hu, State.paint_eq (s.accept.paint _ c), State.paint_eq s.accept]
    rw [he]
    refine .drew _ _ hw hc (fun h => ?_) (fun h => ?_)
    · refine State.paint_wf _ _ ?_
      rw [← hu]
      exact State.paint_wf _ _ (State.paint_wf (s := s.accept) _ _ h)
    · rw [← hcfg]
      refine State.paint_within _ _ ?_
      rw [hcfg, ← hu]
      have h1 := State.paint_within (s := s.accept) (textPoints s.accept.cfg.font text x y) c h
      have h2 := State.paint_within (s := s.accept.paint (textPoints s.accept.cfg.font text x y) c)
        (textPoints s.accept.cfg.font text x y) background (by rw [State.paint_cfg]; exact h1)
      rw [State.paint_cfg] at h2
      exact h2

/-- An instruction answers a next state only when no operation runs, and then in one of these ways. -/
theorem exec_ends {i : Instr} {s t : State} (h : exec i s = .next t) : s.busy = false ∧ Ends i s t := by
  have hne : s.accept.seq ≠ [] := by simp
  cases i <;> simp only [exec, execWriteCommand, execWriteData, execPulseReset, execInitController,
    execSetFullWindow, execSetWindow, execSetPixel, execGetPixel, execFill, execFillRect, execRect,
    execDrawText, execScaledText, execNewDriver, execFlush, execFillScreen, execWDisplayOn,
    execWAddrModeSetup, execWMemAddrMode, execWMuxRatio, execWDisplayOffset, execWClockDiv, execWPrecharge,
    execWComPins, execWVcomh, execWSegRemap, execWFullCol, execWFullRow, execWRamwrFull, execWWinCol,
    execWWinRow, execWRamwrWin, wireOp] at h
  case newDriver =>
    simp only [onRequest] at h
    split at h
    · simp at h
    · simp only [Host.Outcome.next.injEq] at h
      subst h
      exact ⟨by simpa using ‹¬s.busy = true›, newDriver_ends s⟩
  case writeCommand b =>
    exact transmit_ends (by simp) rfl (by decide) (d := 0) rfl (writeCommandBody_transmits b hne) h
  case writeData bs =>
    exact transmit_ends (by simp) rfl (by decide) (d := 0) rfl (writeDataBody_transmits bs hne) h
  case flush => exact transmit_ends (by simp) rfl (by decide) (d := 2) rfl (flushBody_transmits hne) h
  case fillScreen c =>
    exact transmit_ends (by simp) rfl (by decide) (d := 3) rfl (fillScreenBody_transmits c hne) h
  case pulseReset => exact onDriverRequest_ends (by simp) (fun _ hc => .pulsed rfl hc) h
  case setPixel x y c =>
    refine framebufferOp_ends rfl (fun hc => ?_) h
    rw [State.put_eq]
    exact .drew _ _ rfl hc (fun h => State.put_wf (s := s.accept) (x, y) c h)
      (fun h => State.put_within (s := s.accept) (x, y) c h)
  case getPixel x y =>
    refine framebufferOp_ends rfl (fun hc => ?_) h
    split <;> exact .drew s.fb _ rfl hc id id
  case fill c =>
    refine framebufferOp_ends rfl (fun hc => ?_) h
    exact .drew (s.accept.fillAll c).fb .ok rfl hc (fun _ => State.fillAll_wf s.accept c)
      (fun _ => State.fillAll_within s.accept c)
  case fillRect x y w h' c => exact framebufferOp_ends rfl (fun hc => paint_ends rfl hc _ c) h
  case rect x y w h' c => exact framebufferOp_ends rfl (fun hc => paint_ends rfl hc _ c) h
  case drawText text x y c => exact framebufferOp_ends rfl (fun hc => paint_ends rfl hc _ c) h
  case scaledText text x y scale c =>
    refine onDriverRequest_ends (by simp) (fun _ hc => ?_) h
    split
    · exact .turnedAway _ (.inl rfl) (by simp)
    · exact scaleText_ends rfl hc _ _ _ _ _ _
  all_goals exact transmit_ends (by simp) rfl (by decide) (d := 1) rfl (sendBytes_transmits _ hne) h

/-- Every instruction but `NEW` goes through the acceptance of rule R218. -/
theorem exec_onDriverRequest {i : Instr} (hi : i ≠ .newDriver) (s : State) : ∃ run, exec i s = onDriverRequest s run := by
  cases i <;> first
    | exact absurd rfl hi
    | (simp only [exec, execWriteCommand, execWriteData, execPulseReset, execInitController,
        execSetFullWindow, execSetWindow, execSetPixel, execGetPixel, execFill, execFillRect, execRect,
        execDrawText, execScaledText, execFlush, execFillScreen, execWDisplayOn, execWAddrModeSetup,
        execWMemAddrMode, execWMuxRatio, execWDisplayOffset, execWClockDiv, execWPrecharge, execWComPins,
        execWVcomh, execWSegRemap, execWFullCol, execWFullRow, execWRamwrFull, execWWinCol, execWWinRow,
        execWRamwrWin, wireOp, transmit, framebufferOp]
       exact ⟨_, rfl⟩)

/-- The events before the first transmission are whole and hold no failed byte. -/
theorem startOf_trace (i : Instr) (s : State) :
    ∃ es, (startOf i s).trace = s.trace ++ es ∧ frameRun .outside es = some .outside ∧ Event.txFail ∉ es := by
  cases i
  case newDriver =>
    exact ⟨resetPulseOf s.cfg, rfl, frameRun_resetPulseOf _, txFail_notMem_resetPulseOf _⟩
  all_goals exact ⟨[], by simp [startOf, State.accept], rfl, by simp⟩

/-- Everything a step can answer: the host's list is exhausted, or the next request is loaded and its
instruction ends, or its code is unknown. -/
theorem step_ends {s t : State} (h : step s = .next t) :
    t = s ∨ ∃ r rest, s.host = r :: rest ∧ s.busy = false ∧
      ((∃ i, Ends i (s.latch r rest) t) ∨ t = (s.latch r rest).raise .unknownOp) := by
  unfold step fetch at h
  cases hh : s.host with
  | nil => simp only [hh, idleStep, Host.Outcome.next.injEq] at h; exact .inl h.symm
  | cons r rest =>
    simp only [hh] at h
    refine .inr ⟨r, rest, rfl, ?_⟩
    cases hd : decodeRequest r with
    | ok i =>
      simp only [hd] at h
      exact ⟨(exec_ends h).1, .inl ⟨i, (exec_ends h).2⟩⟩
    | error e =>
      simp only [hd, unknownOp, onRequest] at h
      split at h
      · simp at h
      · rename_i hb
        simp only [Host.Outcome.next.injEq] at h
        exact ⟨by simpa using hb, .inr h.symm⟩

end Sys2Proof.Machine
end

