-- ==== Sys2Proof/Laws/PerInstr.lean ====
section
/-! SUPPORT. The statement made per instruction: its space and its code alone fix its row of the opcode
table, whatever the operand registers hold (rules R30, R91, R93, R96). -/

/-- Every request with the instruction's space and code decodes to an instruction of the same row. -/
def Sys2Proof.Laws.CodeFixesRow.Statement (i : Sys2Proof.Instr) : Prop :=
  ∀ a : Sys2Proof.Operands, ∃ j, Sys2Proof.decodeRequest { space := i.space, op := i.opcode, args := a } = .ok j ∧
    j.mnemonic = i.mnemonic

namespace Sys2Proof.Laws.CodeFixesRow

open Sys2Proof

theorem writeCommand (b : Byte) : Statement (.writeCommand b) := fun _ => ⟨_, rfl, rfl⟩
theorem writeData (blob : List Byte) : Statement (.writeData blob) := fun _ => ⟨_, rfl, rfl⟩
theorem pulseReset : Statement .pulseReset := fun _ => ⟨_, rfl, rfl⟩
theorem initController : Statement .initController := fun _ => ⟨_, rfl, rfl⟩
theorem setFullWindow : Statement .setFullWindow := fun _ => ⟨_, rfl, rfl⟩
theorem setWindow (xs ys xe ye : Nat) : Statement (.setWindow xs ys xe ye) := fun _ => ⟨_, rfl, rfl⟩
theorem setPixel (x y : Int) (c : Color) : Statement (.setPixel x y c) := fun _ => ⟨_, rfl, rfl⟩
theorem getPixel (x y : Int) : Statement (.getPixel x y) := fun _ => ⟨_, rfl, rfl⟩
theorem fill (c : Color) : Statement (.fill c) := fun _ => ⟨_, rfl, rfl⟩
theorem fillRect (x y w h : Int) (c : Color) : Statement (.fillRect x y w h c) := fun _ => ⟨_, rfl, rfl⟩
theorem rect (x y w h : Int) (c : Color) : Statement (.rect x y w h c) := fun _ => ⟨_, rfl, rfl⟩
theorem drawText (text : List Byte) (x y : Int) (c : Color) : Statement (.drawText text x y c) := fun _ => ⟨_, rfl, rfl⟩
theorem scaledText (text : List Byte) (x y : Int) (scale : Nat) (c : Color) : Statement (.scaledText text x y scale c) := fun _ => ⟨_, rfl, rfl⟩
theorem newDriver : Statement .newDriver := fun _ => ⟨_, rfl, rfl⟩
theorem flush : Statement .flush := fun _ => ⟨_, rfl, rfl⟩
theorem fillScreen (c : Color) : Statement (.fillScreen c) := fun _ => ⟨_, rfl, rfl⟩
theorem wDisplayOn : Statement .wDisplayOn := fun _ => ⟨_, rfl, rfl⟩
theorem wAddrModeSetup : Statement .wAddrModeSetup := fun _ => ⟨_, rfl, rfl⟩
theorem wMemAddrMode : Statement .wMemAddrMode := fun _ => ⟨_, rfl, rfl⟩
theorem wMuxRatio : Statement .wMuxRatio := fun _ => ⟨_, rfl, rfl⟩
theorem wDisplayOffset : Statement .wDisplayOffset := fun _ => ⟨_, rfl, rfl⟩
theorem wClockDiv : Statement .wClockDiv := fun _ => ⟨_, rfl, rfl⟩
theorem wPrecharge : Statement .wPrecharge := fun _ => ⟨_, rfl, rfl⟩
theorem wComPins : Statement .wComPins := fun _ => ⟨_, rfl, rfl⟩
theorem wVcomh : Statement .wVcomh := fun _ => ⟨_, rfl, rfl⟩
theorem wSegRemap : Statement .wSegRemap := fun _ => ⟨_, rfl, rfl⟩
theorem wFullCol : Statement .wFullCol := fun _ => ⟨_, rfl, rfl⟩
theorem wFullRow : Statement .wFullRow := fun _ => ⟨_, rfl, rfl⟩
theorem wRamwrFull : Statement .wRamwrFull := fun _ => ⟨_, rfl, rfl⟩
theorem wWinCol (xs xe : Nat) : Statement (.wWinCol xs xe) := fun _ => ⟨_, rfl, rfl⟩
theorem wWinRow (ys ye : Nat) : Statement (.wWinRow ys ye) := fun _ => ⟨_, rfl, rfl⟩
theorem wRamwrWin : Statement .wRamwrWin := fun _ => ⟨_, rfl, rfl⟩

end Sys2Proof.Laws.CodeFixesRow
end

