-- ==== Sys2Proof/Tests/Slice0.lean ====
section
/-! SUPPORT. Tests: ill-formed terms the check refuses, the decoding of every constructor from a word
written out from rules R93 and R96, the vectors of spec/95_test_vectors.md (named in each docstring), and
a witness for the hypotheses of every statement. -/

namespace Sys2Proof.Tests

open Sys2Proof Sys2Proof.Machine

/-! ### Ill-formed instructions -/

theorem test_illFormed_setWindow :
    (Instr.setWindow 256 0 0 0).wellFormed = false ∧ (Instr.setWindow 0 256 0 0).wellFormed = false ∧
      (Instr.setWindow 0 0 256 0).wellFormed = false ∧ (Instr.setWindow 0 0 0 256).wellFormed = false := by
  decide

theorem test_illFormed_setPixel :
    (Instr.setPixel 32768 0 0).wellFormed = false ∧ (Instr.setPixel 0 (-32769) 0).wellFormed = false := by
  decide

theorem test_illFormed_getPixel :
    (Instr.getPixel (-32769) 0).wellFormed = false ∧ (Instr.getPixel 0 32768).wellFormed = false := by
  decide

theorem test_illFormed_fillRect :
    (Instr.fillRect 32768 0 0 0 0).wellFormed = false ∧ (Instr.fillRect 0 32768 0 0 0).wellFormed = false ∧
      (Instr.fillRect 0 0 32768 0 0).wellFormed = false ∧
      (Instr.fillRect 0 0 0 (-32769) 0).wellFormed = false := by
  decide

theorem test_illFormed_rect :
    (Instr.rect (-32769) 0 0 0 0).wellFormed = false ∧ (Instr.rect 0 (-32769) 0 0 0).wellFormed = false ∧
      (Instr.rect 0 0 (-32769) 0 0).wellFormed = false ∧ (Instr.rect 0 0 0 32768 0).wellFormed = false := by
  decide

theorem test_illFormed_drawText :
    (Instr.drawText [] 32768 0 0).wellFormed = false ∧ (Instr.drawText [] 0 (-32769) 0).wellFormed = false := by
  decide

theorem test_illFormed_scaledText :
    (Instr.scaledText [] (-32769) 0 1 0).wellFormed = false ∧
      (Instr.scaledText [] 0 32768 1 0).wellFormed = false ∧
      (Instr.scaledText [] 0 0 65536 0).wellFormed = false := by
  decide

theorem test_illFormed_wWinCol :
    (Instr.wWinCol 256 0).wellFormed = false ∧ (Instr.wWinCol 0 256).wellFormed = false := by decide

theorem test_illFormed_wWinRow :
    (Instr.wWinRow 256 0).wellFormed = false ∧ (Instr.wWinRow 0 256).wellFormed = false := by decide

/-! ### Decoding, one word per constructor -/

/-- Operand registers with a different value each; `ARG_X` is -1, `ARG_H` is -32768 (rule R23). -/
def args : Operands where
  x := 0xFFFF
  y := 0x0004
  w := 0x7FFF
  h := 0x8000
  color := 0x00F8
  scale := 0xFFFF
  byte := 0x5C
  blob := [0xF8, 0x00]
  text := [0x41]
  xs := 10
  ys := 20
  xe := 255
  ye := 21

theorem test_decode_writeCommand :
    decodeRequest { op := 0b00000001, args := args } = .ok (.writeCommand 0x5C) := by decide
theorem test_decode_writeData :
    decodeRequest { op := 0b00000010, args := args } = .ok (.writeData [0xF8, 0x00]) := by decide
theorem test_decode_pulseReset : decodeRequest { op := 0b00000011, args := args } = .ok .pulseReset := by decide
theorem test_decode_initController :
    decodeRequest { op := 0b00010000, args := args } = .ok .initController := by decide
theorem test_decode_setFullWindow :
    decodeRequest { op := 0b00010001, args := args } = .ok .setFullWindow := by decide
theorem test_decode_setWindow :
    decodeRequest { op := 0b00010010, args := args } = .ok (.setWindow 10 20 255 21) := by decide
theorem test_decode_setPixel :
    decodeRequest { op := 0b00100000, args := args } = .ok (.setPixel (-1) 4 0x00F8) := by decide
theorem test_decode_getPixel :
    decodeRequest { op := 0b00100001, args := args } = .ok (.getPixel (-1) 4) := by decide
theorem test_decode_fill : decodeRequest { op := 0b00100010, args := args } = .ok (.fill 0x00F8) := by decide
theorem test_decode_fillRect :
    decodeRequest { op := 0b00100011, args := args } = .ok (.fillRect (-1) 4 32767 (-32768) 0x00F8) := by decide
theorem test_decode_rect :
    decodeRequest { op := 0b00100100, args := args } = .ok (.rect (-1) 4 32767 (-32768) 0x00F8) := by decide
theorem test_decode_drawText :
    decodeRequest { op := 0b00100101, args := args } = .ok (.drawText [0x41] (-1) 4 0x00F8) := by decide
theorem test_decode_scaledText :
    decodeRequest { op := 0b00100110, args := args } = .ok (.scaledText [0x41] (-1) 4 65535 0x00F8) := by decide
theorem test_decode_newDriver : decodeRequest { op := 0b00110000, args := args } = .ok .newDriver := by decide
theorem test_decode_flush : decodeRequest { op := 0b00110001, args := args } = .ok .flush := by decide
theorem test_decode_fillScreen :
    decodeRequest { op := 0b00110010, args := args } = .ok (.fillScreen 0x00F8) := by decide
theorem test_decode_wDisplayOn :
    decodeRequest { space := .wire, op := 0b10101111, args := args } = .ok .wDisplayOn := by decide
theorem test_decode_wAddrModeSetup :
    decodeRequest { space := .wire, op := 0b00000000, args := args } = .ok .wAddrModeSetup := by decide
theorem test_decode_wMemAddrMode :
    decodeRequest { space := .wire, op := 0b00100000, args := args } = .ok .wMemAddrMode := by decide
theorem test_decode_wMuxRatio :
    decodeRequest { space := .wire, op := 0b10101000, args := args } = .ok .wMuxRatio := by decide
theorem test_decode_wDisplayOffset :
    decodeRequest { space := .wire, op := 0b11010011, args := args } = .ok .wDisplayOffset := by decide
theorem test_decode_wClockDiv :
    decodeRequest { space := .wire, op := 0b11010101, args := args } = .ok .wClockDiv := by decide
theorem test_decode_wPrecharge :
    decodeRequest { space := .wire, op := 0b11011001, args := args } = .ok .wPrecharge := by decide
theorem test_decode_wComPins :
    decodeRequest { space := .wire, op := 0b11011010, args := args } = .ok .wComPins := by decide
theorem test_decode_wVcomh :
    decodeRequest { space := .wire, op := 0b11011011, args := args } = .ok .wVcomh := by decide
theorem test_decode_wSegRemap :
    decodeRequest { space := .wire, op := 0b10100001, args := args } = .ok .wSegRemap := by decide
theorem test_decode_wFullCol :
    decodeRequest { space := .wire, op := 0b00010101, args := args } = .ok .wFullCol := by decide
theorem test_decode_wFullRow :
    decodeRequest { space := .wire, op := 0b01110101, args := args } = .ok .wFullRow := by decide
theorem test_decode_wRamwrFull :
    decodeRequest { space := .wire, op := 0b01011100, args := args } = .ok .wRamwrFull := by decide
theorem test_decode_wWinCol :
    decodeRequest { space := .wire, op := 0b00101010, args := args } = .ok (.wWinCol 10 255) := by decide
theorem test_decode_wWinRow :
    decodeRequest { space := .wire, op := 0b00101011, args := args } = .ok (.wWinRow 20 21) := by decide
theorem test_decode_wRamwrWin :
    decodeRequest { space := .wire, op := 0b00101100, args := args } = .ok .wRamwrWin := by decide

/-- Rules R98, R99: codes outside the tables are refused by name. -/
theorem test_decode_unknown :
    decodeRequest { op := 0x7F } = .error (.unknownHostOp 0x7F) ∧
      decodeRequest { space := .wire, op := 0xAE } = .error (.unknownWireOp 0xAE) := by decide

/-- Words of the opcode table; the one code in both spaces is read as the host operation. -/
theorem test_tableWord :
    decodeTableWord 8 0x31 = some .flush ∧ decodeTableWord 8 0xAF = some .wDisplayOn ∧
      decodeTableWord 8 0x20 = some (.setPixel 0 0 0) ∧ decodeTableWord 8 0x7F = none := by decide

/-! ### Small states -/

/-- The toy font of spec/95_test_vectors.md: "A" has (0,0) and (1,1), "B" has (7,7). -/
def toyFont : Font := ((Vector.replicate 256 0#64).set 0x41 0x201#64).set 0x42 0x8000000000000000#64

/-- A `w` by `h` panel, two bytes per bound, the toy font. -/
def panel (w h : Nat) : Config :=
  { referenceConfig with width := w, height := h, winBoundBytes := .two, font := toyFont }

/-- Ready for a request, with the draws given and then as many successes as these tests need. -/
def ready (c : Config) (k : Ctrl) (draws : List Bool := []) : State :=
  { State.reset with
    cfg := c, phase := .idle, cs := .driven .inactive, ctrl := k, draws := draws ++ List.replicate 20 true }

/-- The state an outcome goes on with. -/
def next? : Host.Outcome State Fault Refusal → Option State
  | .next s => some s
  | .fault _ => none
  | .refused _ => none

/-- What an instruction leaves, seen through `f`. -/
def sees {α : Type} (f : State → α) (i : Instr) (s : State) : Option α := (next? (exec i s)).map f

/-- The buffer filled with `b`. -/
def filled (c : Config) (b : Color) : State := (ready c .configured).fillAll b

/-- The pixels of `ps` that have the colour `c`, after an instruction. -/
def coloured (ps : List (Int × Int)) (c : Color) (i : Instr) (s : State) : Option (List (Int × Int)) :=
  sees (fun t => ps.filter fun p => decide (t.get p.1 p.2 = some c)) i s

/-- Every pixel of a `w` by `h` panel. -/
def grid (w h : Nat) : List (Int × Int) :=
  (List.range h).flatMap fun y : Nat => (List.range w).map fun x : Nat => ((x : Int), (y : Int))


/-! ### Bus transport -/

/-- V-WC1, V-WC3. -/
theorem test_writeCommand_trigger :
    sees (fun t => (t.trace, t.ctrl, t.result)) (.writeCommand 0x5C) (ready (panel 2 2) .configured) =
      some ([.cs .active, .dc .cmd, .tx 0x5C, .cs .inactive], .ramOpen, .ok) ∧
    sees (·.ctrl) (.writeCommand 0x5C) (ready (panel 2 2) .reset) = some .undefined := by decide +kernel

/-- V-WC4. -/
theorem test_writeCommand_fails :
    sees (fun t => (t.trace, t.errCode, t.seq)) (.writeCommand 0xAF) (ready (panel 2 2) .configured [false]) =
      some ([.cs .active, .dc .cmd, .txFail, .cs .inactive], 0x01, [2]) := by decide +kernel

/-- V-WD2. -/
theorem test_writeData_empty :
    sees (fun t => (t.trace, t.ptr, t.ctrl)) (.writeData []) (ready (panel 2 2) .configured) =
      some ([.cs .active, .dc .data, .cs .inactive], 0, .undefined) := by decide +kernel

/-- V-WD3. -/
theorem test_writeData_fails :
    sees (fun t => (t.trace, t.seq, t.ptr)) (.writeData [1, 2, 3]) (ready (panel 2 2) .ramOpen [true, false]) =
      some ([.cs .active, .dc .data, .tx 1, .txFail, .cs .inactive], [2], 1) := by decide +kernel

/-- V-PR1. -/
theorem test_pulseReset :
    sees (fun t => (t.trace, t.rst, t.ctrl)) .pulseReset (ready (panel 2 2) .configured) =
      some ([.rst .high, .wait 20, .rst .low, .wait 200, .rst .high], .driven .high, .reset) := by decide +kernel

/-- V-PR2. -/
theorem test_pulseReset_post :
    sees (·.trace) .pulseReset (ready { panel 2 2 with tRstPost := 5 } .configured) =
      some [.rst .high, .wait 20, .rst .low, .wait 200, .rst .high, .wait 5] := by decide +kernel

/-! ### Controller protocol -/

/-- V-INIT. -/
theorem test_initController :
    sees (fun t => (byteTraceFrom .data t.trace, t.ptr, t.ctrl)) .initController (ready (panel 2 2) .reset) =
      some ([(.cmd, 0xAF), (.cmd, 0x00), (.data, 0x10), (.cmd, 0x20), (.data, 0x00), (.cmd, 0xA8),
        (.data, 0x3F), (.cmd, 0xD3), (.data, 0x00), (.cmd, 0xD5), (.data, 0x80), (.cmd, 0xD9), (.data, 0x22),
        (.cmd, 0xDA), (.data, 0x12), (.cmd, 0xDB), (.data, 0x40), (.cmd, 0xA1)], 1, .configured) := by decide +kernel

/-- V-INIT-F. -/
theorem test_initController_fails :
    sees (fun t => (t.seq, t.ptr, t.dc)) .initController
      (ready (panel 2 2) .reset [true, true, true, true, true, true, false]) =
      some ([2, 6], 0, .driven .data) := by decide +kernel

/-- V-SFW2. -/
theorem test_setFullWindow :
    sees (fun t => (t.trace, t.result)) .setFullWindow (ready (panel 256 1) .configured) =
      some (framesOf [(.cmd, 0x15), (.data, 0x00), (.data, 0xFF), (.cmd, 0x75), (.data, 0x00), (.data, 0x00),
        (.cmd, 0x5C)], .ok) := by decide +kernel

/-- V-SW1, V-SW1b. -/
theorem test_setWindow :
    sees (fun t => (t.trace, t.ctrl)) (.setWindow 10 20 11 21) (ready (panel 128 128) .configured) =
      some (framesOf [(.cmd, 0x2A), (.data, 0x00), (.data, 0x0C), (.data, 0x00), (.data, 0x0D), (.cmd, 0x2B),
        (.data, 0x00), (.data, 0x15), (.data, 0x00), (.data, 0x16), (.cmd, 0x2C)], .ramOpen) ∧
    sees (·.trace) (.setWindow 10 20 11 21) (ready { panel 128 128 with winBoundBytes := .one } .configured) =
      some (framesOf [(.cmd, 0x2A), (.data, 0x0C), (.data, 0x0D), (.cmd, 0x2B), (.data, 0x15), (.data, 0x16),
        (.cmd, 0x2C)]) := by decide +kernel

/-- V-SW5. -/
theorem test_setWindow_violated :
    sees (fun t => (t.trace, t.ctrl, t.err)) (.setWindow 0 0 255 255) (ready (panel 128 128) .configured) =
      some (framesOf [(.cmd, 0x2A), (.data, 0x00), (.data, 0x02), (.data, 0x01), (.data, 0x01), (.cmd, 0x2B),
        (.data, 0x00), (.data, 0x01), (.data, 0x01), (.data, 0x00), (.cmd, 0x2C)], .undefined, false) := by
  decide +kernel

/-! ### Framebuffer -/

/-- V-SP1, V-SP2. -/
theorem test_setPixel :
    sees (·.fb) (.setPixel 3 4 0x00F8) (ready (panel 128 128) .configured) = some [(1030, 0xF8), (1031, 0x00)] ∧
    sees (·.fb) (.setPixel 127 127 0xE007) (ready (panel 128 128) .configured) =
      some [(32766, 0x07), (32767, 0xE0)] := by decide +kernel

/-- V-SP3, V-SP6. -/
theorem test_setPixel_outside :
    sees (·.fb) (.setPixel 128 0 0x1234) (ready (panel 128 128) .configured) = some [] ∧
    sees (·.fb) (.setPixel 3 4 0x00F8) (ready { panel 128 128 with fbByteOrder := .big } .configured) =
      some [(1030, 0x00), (1031, 0xF8)] := by decide +kernel

/-- V-GP1, V-GP2. -/
theorem test_getPixel :
    sees (·.result) (.getPixel 3 4) ((ready (panel 128 128) .configured).put (3, 4) 0x00F8) =
      some (.pixel 0x00F8) ∧
    sees (·.result) (.getPixel 128 0) (ready (panel 128 128) .configured) = some .noPixel := by decide +kernel

/-- V-FILL. -/
theorem test_fill :
    sees (·.fb) (.fill 0xE007) (ready (panel 2 2) .configured) =
      some [(0, 0x07), (1, 0xE0), (2, 0x07), (3, 0xE0), (4, 0x07), (5, 0xE0), (6, 0x07), (7, 0xE0)] := by decide +kernel

/-- V-FR2. -/
theorem test_fillRect :
    coloured (grid 4 4) 0x0C0C (.fillRect (-1) (-1) 3 3 0x0C0C) (filled (panel 4 4) 0x0B0B) =
      some [(0, 0), (1, 0), (0, 1), (1, 1)] := by decide +kernel

/-- V-FR4. -/
theorem test_fillRect_edges :
    coloured (grid 4 4) 0x0C0C (.fillRect 0 0 4 (-1) 0x0C0C) (filled (panel 4 4) 0x0B0B) = some [] ∧
    coloured (grid 4 4) 0x0C0C (.fillRect 0 0 32767 32767 0x0C0C) (filled (panel 4 4) 0x0B0B) =
      some (grid 4 4) := by decide +kernel

/-- V-R1. -/
theorem test_rect :
    coloured (grid 4 4) 0x0C0C (.rect 0 0 3 3 0x0C0C) (filled (panel 4 4) 0x0B0B) =
      some [(0, 0), (1, 0), (2, 0), (0, 1), (2, 1), (0, 2), (1, 2), (2, 2)] := by decide +kernel

/-- V-R3. -/
theorem test_rect_clipped :
    coloured (grid 4 4) 0x0C0C (.rect 2 2 4 4 0x0C0C) (filled (panel 4 4) 0x0B0B) =
      some [(2, 2), (3, 2), (2, 3)] := by decide +kernel

/-- V-DT1: the pixels (5,6), (6,7), (20,13) of a 32 by 16 panel, at offsets 394, 460 and 872. -/
theorem test_drawText :
    sees (·.fb) (.drawText [0x41, 0x42] 5 6 0x0C0D) (ready (panel 32 16) .configured) =
      some [(394, 0x0D), (395, 0x0C), (460, 0x0D), (461, 0x0C), (872, 0x0D), (873, 0x0C)] := by
  decide +kernel

/-- V-DT3: (-1,0) is dropped, (0,1) stands at offset 64. -/
theorem test_drawText_clipped :
    sees (·.fb) (.drawText [0x41] (-1) 0 0x0C0D) (ready (panel 32 16) .configured) =
      some [(64, 0x0D), (65, 0x0C)] := by decide +kernel

/-- V-ST1 with the anchor at (1,2) on an 8 by 8 panel: squares at (1,2) and (3,4). -/
theorem test_scaledText :
    coloured (grid 8 8) 0x0C0C (.scaledText [0x41] 1 2 2 0x0C0C) (filled (panel 8 8) 0x0B0B) =
      some [(1, 2), (2, 2), (1, 3), (2, 3), (3, 4), (4, 4), (3, 5), (4, 5)] := by decide +kernel

/-- V-ST3 with the anchor at (1,2): the pixel (3,2) of the box had the colour; it is magnified to the square
at (5,2), and kept. -/
theorem test_scaledText_stray :
    coloured (grid 8 8) 0x0C0C (.scaledText [0x41] 1 2 2 0x0C0C) ((filled (panel 8 8) 0x0B0B).put (3, 2) 0x0C0C) =
      some [(1, 2), (2, 2), (3, 2), (5, 2), (6, 2), (1, 3), (2, 3), (5, 3), (6, 3), (3, 4), (4, 4), (3, 5),
        (4, 5)] := by decide +kernel

/-! ### Display driver -/

/-- P0: the first and last events, and the end state. -/
theorem test_newDriver :
    sees (fun t => (t.trace.length, t.phase, t.ptr, t.dc, t.ctrl)) .newDriver
      { State.reset with draws := List.replicate 18 true } =
      some (77, .idle, 1, .driven .cmd, .configured) := by decide +kernel

/-- V-NEW-F. -/
theorem test_newDriver_fails :
    sees (fun t => (t.trace, t.phase, t.ctrl)) .newDriver { State.reset with draws := [false] } =
      some ([.rst .high, .wait 20, .rst .low, .wait 200, .rst .high, .cs .active, .dc .cmd, .txFail,
        .cs .inactive], .failed, .undefined) := by decide +kernel

/-- A buffer of eight different bytes. -/
def flushable (draws : List Bool) : State :=
  { ready (panel 2 2) .configured draws with
    fb := [(0, 0xF8), (1, 0x00), (2, 0x07), (3, 0xE0), (4, 0x00), (5, 0x1F), (6, 0xFF), (7, 0xFF)] }

/-- V-FL1. -/
theorem test_flush :
    sees (fun t => (t.trace, t.ptr, t.ctrl)) .flush (flushable []) =
      some (framesOf [(.cmd, 0x15), (.data, 0x00), (.data, 0x01), (.cmd, 0x75), (.data, 0x00), (.data, 0x01),
        (.cmd, 0x5C)] ++ [.cs .active, .dc .data, .tx 0xF8, .tx 0x00, .tx 0x07, .tx 0xE0, .tx 0x00, .tx 0x1F,
        .tx 0xFF, .tx 0xFF, .cs .inactive], 8, .ramOpen) := by decide +kernel

/-- V-FL3. -/
theorem test_flush_fails :
    sees (fun t => (t.seq, t.ptr, t.ctrl)) .flush (flushable (List.replicate 10 true ++ [false])) =
      some ([2, 1], 3, .undefined) := by decide +kernel

/-- V-FS1. -/
theorem test_fillScreen :
    sees (fun t => (t.trace.drop 28, t.fbBytes)) (.fillScreen 0x1F00) (flushable []) =
      some ([.cs .active, .dc .data, .tx 0x00, .tx 0x1F, .tx 0x00, .tx 0x1F, .tx 0x00, .tx 0x1F, .tx 0x00,
        .tx 0x1F, .cs .inactive], [0x00, 0x1F, 0x00, 0x1F, 0x00, 0x1F, 0x00, 0x1F]) := by decide +kernel

/-- V-FS2. -/
theorem test_fillScreen_fails :
    sees (fun t => (t.trace, t.fbBytes)) (.fillScreen 0x0000) (flushable [false]) =
      some ([.cs .active, .dc .cmd, .txFail, .cs .inactive], [0, 0, 0, 0, 0, 0, 0, 0]) := by decide +kernel

/-! ### Wire commands (rule R96) -/

theorem test_wDisplayOn :
    sees (·.trace) .wDisplayOn (ready (panel 2 2) .reset) = some (framesOf [(.cmd, 0xAF)]) := by decide +kernel
theorem test_wAddrModeSetup :
    sees (·.trace) .wAddrModeSetup (ready (panel 2 2) .reset) =
      some (framesOf [(.cmd, 0x00), (.data, 0x10)]) := by decide +kernel
theorem test_wMemAddrMode :
    sees (·.trace) .wMemAddrMode (ready (panel 2 2) .reset) =
      some (framesOf [(.cmd, 0x20), (.data, 0x00)]) := by decide +kernel
theorem test_wMuxRatio :
    sees (·.trace) .wMuxRatio (ready (panel 2 2) .reset) = some (framesOf [(.cmd, 0xA8), (.data, 0x3F)]) := by
  decide +kernel
theorem test_wDisplayOffset :
    sees (·.trace) .wDisplayOffset (ready (panel 2 2) .reset) =
      some (framesOf [(.cmd, 0xD3), (.data, 0x00)]) := by decide +kernel
theorem test_wClockDiv :
    sees (·.trace) .wClockDiv (ready (panel 2 2) .reset) = some (framesOf [(.cmd, 0xD5), (.data, 0x80)]) := by
  decide +kernel
theorem test_wPrecharge :
    sees (·.trace) .wPrecharge (ready (panel 2 2) .reset) = some (framesOf [(.cmd, 0xD9), (.data, 0x22)]) := by
  decide +kernel
theorem test_wComPins :
    sees (·.trace) .wComPins (ready (panel 2 2) .reset) = some (framesOf [(.cmd, 0xDA), (.data, 0x12)]) := by
  decide +kernel
theorem test_wVcomh :
    sees (·.trace) .wVcomh (ready (panel 2 2) .reset) = some (framesOf [(.cmd, 0xDB), (.data, 0x40)]) := by
  decide +kernel
theorem test_wSegRemap :
    sees (·.trace) .wSegRemap (ready (panel 2 2) .reset) = some (framesOf [(.cmd, 0xA1)]) := by decide +kernel
theorem test_wFullCol :
    sees (·.trace) .wFullCol (ready (panel 128 64) .reset) =
      some (framesOf [(.cmd, 0x15), (.data, 0x00), (.data, 0x7F)]) := by decide +kernel
theorem test_wFullRow :
    sees (·.trace) .wFullRow (ready (panel 128 64) .reset) =
      some (framesOf [(.cmd, 0x75), (.data, 0x00), (.data, 0x3F)]) := by decide +kernel
theorem test_wRamwrFull :
    sees (fun t => (t.trace, t.ctrl)) .wRamwrFull (ready (panel 2 2) .configured) =
      some (framesOf [(.cmd, 0x5C)], .ramOpen) := by decide +kernel
theorem test_wWinCol :
    sees (·.trace) (.wWinCol 0 255) (ready (panel 128 128) .reset) =
      some (framesOf [(.cmd, 0x2A), (.data, 0x00), (.data, 0x02), (.data, 0x01), (.data, 0x01)]) := by decide +kernel
theorem test_wWinRow :
    sees (·.trace) (.wWinRow 0 255) (ready { panel 128 128 with winBoundBytes := .one } .reset) =
      some (framesOf [(.cmd, 0x2B), (.data, 0x01), (.data, 0x00)]) := by decide +kernel
theorem test_wRamwrWin :
    sees (·.trace) .wRamwrWin (ready (panel 2 2) .configured) = some (framesOf [(.cmd, 0x2C)]) := by decide +kernel

/-- A byte trace decodes by class and length (rules R97, R106). -/
theorem test_byteTrace :
    decodeByteTrace (panel 128 128) [(.cmd, 0x00), (.data, 0x10), (.cmd, 0x20)] =
      .ok (.wAddrModeSetup, [(.cmd, 0x20)]) ∧
    decodeByteTrace (panel 128 128) [(.data, 0x00)] = .error (.notACommand 0x00) ∧
    decodeByteTrace (panel 128 128) [(.cmd, 0xA8), (.data, 0x40)] = .error (.badWireOperands 0xA8) := by decide +kernel

/-! ### Acceptance -/

/-- V-X2, V-X3, V-X4: the code before the phase, the phase before the operands. -/
theorem test_acceptance :
    (next? (step { State.reset with host := [{ op := 0x7F }] })).map (fun t => (t.errCode, t.phase)) =
      some (0x04, .off) ∧
    sees (fun t => (t.errCode, t.trace)) .flush State.reset = some (0x05, []) ∧
    sees (·.errCode) (.scaledText [0x41] (-1) 0 0 0x0C0C) State.reset = some 0x05 := by decide +kernel

/-- V-X5: the flag is not sticky. -/
theorem test_notSticky :
    sees (fun t => (t.err, t.errCode, t.everErr)) (.getPixel 0 0)
      { ready (panel 2 2) .undefined with err := true, errCode := 0x01, everErr := true } =
      some (false, 0, true) := by decide +kernel

/-! ### Witnesses: each names the statement whose hypotheses it meets -/

theorem test_meets_decodeOfEncode :
    (Instr.setWindow 255 0 255 0).wellFormed = true ∧ (Instr.setPixel (-32768) 32767 0).wellFormed = true ∧
      (Instr.scaledText [0x41] 32767 (-32768) 65535 0).wellFormed = true := by decide

theorem test_meets_decodedIsWellFormed :
    decodeRequest { op := 0x12, args := { xe := 255 } } = .ok (.setWindow 0 0 255 0) ∧
      decodeRequest { space := .wire, op := 0x2B, args := { ys := 255 } } = .ok (.wWinRow 255 0) := by decide

theorem test_meets_byteTraceDecodes :
    (Instr.wWinCol 0 255).wellFormed = true ∧ (Instr.wWinCol 0 255).space = .wire ∧
      Instr.wDisplayOn.wellFormed = true ∧ Instr.wDisplayOn.space = .wire := by decide

theorem test_meets_operationsReadTheirRegisters :
    readsSame 0x21 args { args with color := 0, w := 1, byte := 0 } ∧ readsSame 0x31 args {} := by
  exact ⟨⟨rfl, rfl⟩, trivial⟩

theorem test_meets_wireCommandBytes :
    (panel 128 128).winBoundBytes = .two ∧
      ({ panel 128 128 with winBoundBytes := .one } : Config).winBoundBytes = .one := ⟨rfl, rfl⟩

theorem test_meets_stepRunsTheDecodedInstruction :
    ({ State.reset with host := [{ op := 0x30 }] } : State).host = { op := 0x30 } :: [] ∧
      decodeRequest { op := 0x30 } = .ok .newDriver := by decide

theorem test_meets_exhaustedHostChangesNothing : State.reset.host = [] := rfl

theorem test_meets_unknownCodeIsTurnedAway :
    ({ State.reset with host := [{ op := 0x33 }] } : State).host = { op := 0x33 } :: [] ∧
      ({ op := 0x33 } : Request).space = .host ∧ (0x33 : Byte) ∉ hostCodes ∧ (0x00 : Byte) ∉ hostCodes ∧
      State.reset.busy = false := by decide

/-- A host code is no wire code here: 0x01 and 0xAE. -/
theorem test_meets_unknownWireCodeIsTurnedAway :
    ({ State.reset with host := [{ space := .wire, op := 0xAE }] } : State).host =
        { space := .wire, op := 0xAE } :: [] ∧
      ({ space := .wire, op := 0xAE } : Request).space = .wire ∧ (0xAE : Byte) ∉ wireCodes ∧
      (0x01 : Byte) ∉ wireCodes ∧ State.reset.busy = false := by decide

theorem test_meets_unconstructedTurnsAwayAllButNew :
    Instr.flush ≠ .newDriver ∧ State.reset.busy = false ∧ State.reset.phase = .off ∧
      ({ State.reset with phase := .failed } : State).phase = .failed := by decide

theorem test_meets_busyRequestStops : ({ State.reset with busy := true } : State).busy = true := rfl

theorem test_meets_everyOperationEnds : State.reset.busy = false := rfl

/-- For the statements that operand registers are left and that the ghost is never read: an instruction that
completes, one turned away. -/
theorem test_meets_execNext :
    (∃ t, exec .pulseReset (ready (panel 2 2) .configured) = .next t) ∧
      ∃ t, exec .flush State.reset = .next t := ⟨⟨_, rfl⟩, ⟨_, rfl⟩⟩

theorem test_meets_powerOnAndNewValues :
    let s : State := { State.reset with host := [{ op := 0x30, args := args }], draws := List.replicate 18 true }
    s.host = { space := .host, op := 0x30, args := args } :: [] ∧ s.busy = false ∧
      s.cfg.initTable = State.reset.cfg.initTable ∧ NoTxFails s 18 := by decide +kernel

theorem test_meets_powerOnAndNewValues_noDataEntry :
    let s : State :=
      { State.reset with cfg := { panel 2 2 with initTable := [(.cmd, 0xAF)] }, draws := [true] }
    s.busy = false ∧ (∀ w ∈ s.cfg.initTable, w.1 = .cmd) ∧ NoTxFails s s.cfg.initTable.length := by decide +kernel

/-- A state between two requests, after one command frame. -/
def settled : State :=
  { State.reset with
    cfg := panel 4 4, phase := .idle, cs := .driven .inactive, dc := .driven .cmd, ctrl := .configured,
    trace := [.cs .active, .dc .cmd, .tx 0x5C, .cs .inactive], fb := [(4, 0xF8), (5, 0x00)],
    host := [{ op := 0x03 }] }

/-- Also for the statements that a step keeps the configuration and appends to the trace. -/
theorem test_meets_stepKeepsInvariant : Invariant settled ∧ ∃ t, step settled = .next t := by
  refine ⟨?_, ⟨_, rfl⟩⟩
  constructor
  · constructor <;> decide
  all_goals first | rfl | decide

theorem test_meets_stepKeepsTraceBracketed : bracketed settled.trace ∧ ∃ t, step settled = .next t :=
  ⟨rfl, ⟨_, rfl⟩⟩

/-- A transport failure, of `NEW` too, and an end without one. -/
theorem test_meets_transportFailureAborts :
    (∃ t, exec (.writeCommand 0xAF) (ready (panel 2 2) .configured [false]) = .next t ∧ t.errCode = 0x01) ∧
      (∃ t, exec .newDriver { State.reset with draws := [false] } = .next t ∧ t.errCode = 0x01) ∧
      ∃ t, exec (.fill 0) (ready (panel 2 2) .configured) = .next t ∧ t.errCode ≠ 0x01 :=
  ⟨⟨_, rfl, rfl⟩, ⟨_, rfl, rfl⟩, ⟨_, rfl, by decide⟩⟩

/-- Each group of codes of the transition table, and an end without an error. -/
theorem test_meets_controllerContextTable :
    (∃ t, exec .flush (ready (panel 2 2) .configured [false]) = .next t ∧ t.errCode = 0x01) ∧
      (∃ t, exec (.setPixel 2 0 0) (ready { panel 2 2 with oobPolicy := .reject } .configured) = .next t ∧
        t.errCode = 0x02) ∧
      (∃ t, exec (.scaledText [] 0 0 0 0) (ready (panel 2 2) .configured) = .next t ∧ t.errCode = 0x03) ∧
      (∃ t, exec .flush State.reset = .next t ∧ t.errCode = 0x05) ∧
      ∃ t, exec (.writeCommand 0x2C) (ready (panel 2 2) .configured) = .next t ∧ t.err = false :=
  ⟨⟨_, rfl, rfl⟩, ⟨_, rfl, rfl⟩, ⟨_, rfl, rfl⟩, ⟨_, rfl, rfl⟩, ⟨_, rfl, rfl⟩⟩

/-- A change into each state of the ghost that can be entered, and one out of `UNDEFINED`. -/
theorem test_meets_onlyWaysBetweenControllerStates :
    sees (·.ctrl) .pulseReset (ready (panel 2 2) .undefined) = some .reset ∧
      sees (·.ctrl) .initController (ready (panel 2 2) .reset) = some .configured ∧
      sees (·.ctrl) (.writeCommand 0x5C) (ready (panel 2 2) .configured) = some .ramOpen := by decide +kernel

theorem test_meets_writeCommandSendsOneByte :
    Ready (ready (panel 2 2) .configured) ∧ (ready (panel 2 2) .configured).drawAt 0 = true ∧
      Ready (ready (panel 2 2) .configured [false]) ∧
      (ready (panel 2 2) .configured [false]).drawAt 0 = false := by decide

/-- The first and the last byte failing. -/
theorem test_meets_writeDataSendsTheBlob :
    NoTxFails (ready (panel 2 2) .configured) 3 ∧ TxFailsAt (ready (panel 2 2) .configured [false]) 0 ∧
      TxFailsAt (ready (panel 2 2) .configured [true, true, false]) 2 ∧
      Ready (ready (panel 2 2) .configured [true, true, false]) := by decide

theorem test_meets_pulseResetPulses : Ready (ready (panel 2 2) .configured) := by decide

/-- No failure, the first and the last entry failing. -/
theorem test_meets_initializeSendsTheTable :
    NoTxFails (ready (panel 2 2) .reset) (panel 2 2).initTable.length ∧
      (panel 2 2).initTable = State.reset.cfg.initTable ∧
      (panel 2 2).initTable[0]? = some (.cmd, 0xAF) ∧ TxFailsAt (ready (panel 2 2) .reset [false]) 0 ∧
      (panel 2 2).initTable[17]? = some (.cmd, 0xA1) ∧
      TxFailsAt (ready (panel 2 2) .reset (List.replicate 17 true ++ [false])) 17 := by decide +kernel

/-- No failure, the first and the last frame failing. -/
theorem test_meets_setFullWindowSendsSevenFrames :
    NoTxFails (ready (panel 2 2) .reset) 7 ∧ (fullWindowBytes (panel 2 2))[0]? = some (.cmd, 0x15) ∧
      TxFailsAt (ready (panel 2 2) .reset [false]) 0 ∧
      (fullWindowBytes (panel 2 2))[6]? = some (.cmd, 0x5C) ∧
      TxFailsAt (ready (panel 2 2) .reset (List.replicate 6 true ++ [false])) 6 := by decide +kernel

/-- No failure and the last frame failing, with two bytes per bound and with one. -/
theorem test_meets_setWindowSendsItsFrames :
    (windowBytes (panel 2 2) 0 0 255 255).length = 11 ∧ NoTxFails (ready (panel 2 2) .reset) 11 ∧
      (windowBytes (panel 2 2) 0 0 255 255)[10]? = some (.cmd, 0x2C) ∧
      TxFailsAt (ready (panel 2 2) .reset (List.replicate 10 true ++ [false])) 10 ∧
      (windowBytes { panel 2 2 with winBoundBytes := .one } 0 0 255 255).length = 7 ∧
      (windowBytes { panel 2 2 with winBoundBytes := .one } 0 0 255 255)[6]? = some (.cmd, 0x2C) ∧
      TxFailsAt (ready { panel 2 2 with winBoundBytes := .one } .reset (List.replicate 6 true ++ [false])) 6 := by
  decide +kernel

/-- No failure and the last byte failing. -/
theorem test_meets_wireCommandEmitsItsFrames :
    (Instr.wWinCol 0 255).space = .wire ∧ Ready (ready (panel 2 2) .reset) ∧
      NoTxFails (ready (panel 2 2) .reset) (wireBytes (panel 2 2) (.wWinCol 0 255)).length ∧
      (wireBytes (panel 2 2) (.wWinCol 0 255))[4]? = some (.data, 0x01) ∧
      TxFailsAt (ready (panel 2 2) .reset (List.replicate 4 true ++ [false])) 4 := by decide +kernel

theorem test_meets_drawingTouchesNoWire :
    (Instr.setPixel 0 0 0).space = .host ∧ 0x20 ≤ (Instr.setPixel 0 0 0).opcode.toNat ∧
      (Instr.setPixel 0 0 0).opcode.toNat ≤ 0x26 ∧ (Instr.scaledText [] 0 0 1 0).opcode.toNat ≤ 0x26 ∧
      (next? (exec (.setPixel 0 0 0) (ready (panel 2 2) .configured))).isSome = true := by decide +kernel

/-- A panel whose bounds policy is `reject`. -/
def strict (w h : Nat) : Config := { panel w h with oobPolicy := .reject }

/-- `SET_PIXEL` and `GET_PIXEL`: a pixel outside under `clip`, the last pixel under `reject`. -/
theorem test_meets_setAndGetPixel :
    Ready (ready (panel 2 2) .configured) ∧ (ready (panel 2 2) .configured).cfg.oobPolicy = .clip ∧
      inb (panel 2 2) 2 0 = false ∧ Ready (ready (strict 2 2) .configured) ∧ inb (strict 2 2) 1 1 = true := by
  decide

theorem test_meets_fillWritesEveryPixel :
    Ready (ready (panel 2 2) .configured) ∧ 3 < (panel 2 2).width * (panel 2 2).height ∧
      inb (panel 2 2) 1 1 = true := by decide

/-- `FILL_RECT` and `RECT`: under `clip`, a pixel of a box partly outside; under `reject`, the whole
buffer. -/
theorem test_meets_rectangles :
    (Ready (ready (panel 2 2) .configured) ∧ (ready (panel 2 2) .configured).cfg.oobPolicy = .clip ∧
      inb (panel 2 2) 0 0 = true ∧ inBox (-1) (-1) 2 2 0 0) ∧
    Ready (ready (strict 2 2) .configured) ∧ ∀ i j, inBox 0 0 2 2 i j → inb (strict 2 2) i j = true := by
  refine ⟨by decide, by decide, fun i j h => ?_⟩
  exact rectInside_iff.mp (by decide : rectInside (strict 2 2) 0 0 2 2 = true) i j h.1 h.2

/-- `DRAW_TEXT`: a set pixel inside under `clip`; under `reject`, a text wholly inside. -/
theorem test_meets_drawTextColoursTheGlyphs :
    (Ready (ready (panel 8 8) .configured) ∧ inb (panel 8 8) 1 2 = true ∧
      textPixel (panel 8 8).font [0x41] 0 1 1 2) ∧
    Ready (ready (strict 8 8) .configured) ∧
      ∀ i j, textPixel (strict 8 8).font [0x41] 0 1 i j → inb (strict 8 8) i j = true := by
  refine ⟨⟨by decide, by decide, 0, 1, 1, 0x41, rfl, by decide, by decide, by decide +kernel, rfl, rfl⟩, by decide, ?_⟩
  exact textInside_iff.mp (by decide +kernel)

/-- `SCALED_TEXT` under `clip`: the anchor's colour, a scale of 1 or more, a pixel of a square, and a set
pixel of the text in no square. -/
theorem test_meets_scaledText_clip :
    Ready (filled (panel 8 8) 0x0B0B) ∧ (filled (panel 8 8) 0x0B0B).get 1 2 = some 0x0B0B ∧
      inb (panel 8 8) 4 5 = true ∧ inSomeBlock (filled (panel 8 8) 0x0B0B) [0x41] 1 2 2 0x0C0C 4 5 ∧
      inb (panel 8 8) 2 3 = true ∧ textPixel (panel 8 8).font [0x41] 1 2 2 3 := by
  have t11 : textPixel (panel 8 8).font [0x41] 1 2 2 3 :=
    ⟨0, 1, 1, 0x41, rfl, by decide, by decide, by decide +kernel, rfl, rfl⟩
  refine ⟨by decide +kernel, by decide +kernel, by decide, ⟨2, 3, ⟨by decide, by decide, .inl t11⟩, by decide⟩,
    by decide, t11⟩

/-- `SCALED_TEXT` under `reject`: everything it puts and gets inside. -/
theorem test_meets_scaledText_reject :
    (filled (strict 8 8) 0x0B0B).get 0 0 = some 0x0B0B ∧
      scaledInside (filled (strict 8 8) 0x0B0B) [0x41] 0 0 2 0x0C0C := by
  refine ⟨by decide +kernel, ?_, ?_, ?_⟩
  · exact textInside_iff.mp (by decide +kernel)
  · intro i j h
    exact rectInside_iff.mp (by decide : rectInside (strict 8 8) 0 0 8 8 = true) i j h.1 h.2
  · exact blocksInside_iff.mp (by decide +kernel)

/-- Anchors outside on either axis; with scale 0 an anchor inside. -/
theorem test_meets_scaledTextBadOperand :
    Ready (ready (panel 2 2) .configured) ∧ inb (panel 2 2) 2 0 = false ∧ inb (panel 2 2) 0 (-1) = false ∧
      inb (panel 2 2) 1 1 = true := by decide

/-- Under `reject`: an instruction that is ended, and one that is not. -/
theorem test_meets_rejectPolicyIsAllOrNothing :
    Ready (ready (strict 2 2) .configured) ∧ (ready (strict 2 2) .configured).cfg.oobPolicy = .reject ∧
      sees (·.errCode) (.setPixel 2 0 0) (ready (strict 2 2) .configured) = some 0x02 ∧
      sees (·.errCode) (.setPixel 1 0 0) (ready (strict 2 2) .configured) = some 0x00 := by decide +kernel

theorem test_meets_rejectPolicyEndsOutsideDrawing :
    Ready (ready (strict 2 2) .configured) ∧ inb (strict 2 2) 2 0 = false ∧ inBox 1 0 2 1 2 0 ∧
      textPixel (strict 2 2).font [0x41] 1 0 2 1 ∧ inb (strict 2 2) 2 1 = false :=
  ⟨by decide, by decide, by decide,
    ⟨0, 1, 1, 0x41, rfl, by decide, by decide, by decide +kernel, rfl, rfl⟩, by decide⟩

/-- `SCALED_TEXT` under `reject`, from an anchor inside, first pixels past the right edge: a set pixel of the
text, a pixel of the bounding box, and, with both of those inside, a pixel of the square of `(1, 1)`. -/
theorem test_meets_rejectPolicyEndsScaledText :
    Ready (filled (strict 8 8) 0x0B0B) ∧ (filled (strict 8 8) 0x0B0B).cfg.oobPolicy = .reject ∧
      (inb (strict 8 8) 7 0 = true ∧ inb (strict 8 8) 8 1 = false ∧
        textPixel (strict 8 8).font [0x41] 7 0 8 1) ∧
      (inb (strict 8 8) 1 0 = true ∧ inb (strict 8 8) 8 0 = false ∧ inBox 1 0 (8 * 1) 8 8 0) ∧
      inb (strict 8 8) 0 0 = true ∧ inb (strict 8 8) 8 8 = false ∧
      inSomeBlock (filled (strict 8 8) 0x0B0B) [0x41] 0 0 8 0x0C0C 8 8 := by
  refine ⟨by decide +kernel, rfl, ⟨by decide, by decide, ?_⟩, ⟨by decide, by decide, by decide⟩, by decide,
    by decide, 1, 1, ⟨by decide, by decide, .inl ?_⟩, by decide⟩
  · exact ⟨0, 1, 1, 0x41, rfl, by decide, by decide, by decide +kernel, rfl, rfl⟩
  · exact ⟨0, 1, 1, 0x41, rfl, by decide, by decide, by decide +kernel, rfl, rfl⟩

/-- What it leaves then: error 0x02, every pixel as it was. -/
theorem test_scaledText_reject_outside :
    sees (·.errCode) (.scaledText [0x41] 0 0 8 0x0C0C) (filled (strict 8 8) 0x0B0B) = some 0x02 ∧
      coloured [(0, 0), (1, 1), (7, 7)] 0x0B0B (.scaledText [0x41] 0 0 8 0x0C0C)
        (filled (strict 8 8) 0x0B0B) = some [(0, 0), (1, 1), (7, 7)] := by decide +kernel

theorem test_meets_pixelSetIsPixelRead :
    Ready (ready (strict 2 2) .configured) ∧ inb (strict 2 2) 1 1 = true ∧ ((0 : Int), (1 : Int)) ≠ (1, 1) := by
  decide

/-- `RECT` after `FILL_RECT`, and scale 1. -/
theorem test_meets_clipPolicy :
    Ready (ready (panel 8 8) .configured) ∧ (ready (panel 8 8) .configured).cfg.oobPolicy = .clip ∧
      inb (panel 8 8) 7 7 = true := by decide

/-- The box of the text holds no pixel of the colour. -/
theorem test_meets_magnificationIsExact :
    Ready (filled (panel 8 8) 0x0B0B) ∧ (filled (panel 8 8) 0x0B0B).cfg.oobPolicy = .clip ∧
      inb (panel 8 8) 1 2 = true ∧ 1 ≤ 2 ∧
      ∀ i j, inBox 1 2 (8 * [(0x41 : Byte)].length) 8 i j → (filled (panel 8 8) 0x0B0B).get i j ≠ some 0x0C0C := by
  refine ⟨by decide +kernel, rfl, by decide, by decide, fun i j _ => ?_⟩
  by_cases h : inb (panel 8 8) i j = true
  · rw [filled, State.fillAll_get (ready (panel 8 8) .configured) _ _ _ h]; decide
  · simp [State.get, filled, ready, h]

/-- `NEW` from power-on: no failure, the first and the last entry failing. -/
theorem test_meets_newResetsAndInitializes :
    let s : State := { State.reset with draws := List.replicate 18 true }
    let u : State := { State.reset with draws := [false] }
    let v : State := { State.reset with draws := List.replicate 17 true ++ [false] }
    (s.busy = false ∧ NoTxFails s s.cfg.initTable.length) ∧
      (u.cfg.initTable[0]? = some (.cmd, 0xAF) ∧ TxFailsAt u 0) ∧
      (v.cfg.initTable[17]? = some (.cmd, 0xA1) ∧ TxFailsAt v 17) := by decide +kernel

/-- `FLUSH` and `FILL_SCREEN`: no failure, the first and last window frame and the first and last streamed
byte failing. -/
theorem test_meets_flushAndFillScreen :
    Ready (flushable []) ∧ NoTxFails (flushable []) (7 + (flushable []).cfg.fbLen) ∧
      TxFailsAt (flushable [false]) 0 ∧ (fullWindowBytes (panel 2 2))[0]? = some (.cmd, 0x15) ∧
      TxFailsAt (flushable (List.replicate 6 true ++ [false])) 6 ∧
      (fullWindowBytes (panel 2 2))[6]? = some (.cmd, 0x5C) ∧
      TxFailsAt (flushable (List.replicate 7 true ++ [false])) (7 + 0) ∧ 7 < (flushable []).cfg.fbLen ∧
      TxFailsAt (flushable (List.replicate 14 true ++ [false])) (7 + 7) := by decide +kernel

theorem test_meets_flushedPixelBytes :
    (flushable []).cfg.fbByteOrder = .little ∧ (flushable []).get 1 1 = some 0xFFFF ∧
      (flushable []).get 0 0 = some 0x00F8 := by decide +kernel

end Sys2Proof.Tests
end

section
/-! SUPPORT. Every step keeps the invariant (O18): what holds of the state while an operation runs, what ends an
operation in the invariant again, and the invariant over every way an instruction can end. -/

namespace Sys2Proof.Machine

/-- What holds of the state while an operation runs, `f` being where its trace stands in the frame grammar of
rule R125: the clauses of `Invariant` that do not speak of the flags, the phase or the sequencer. -/
structure Running (f : FrameState) (s : State) : Prop where
  config : Config.Valid s.cfg
  memory : Memory.wf s.fb
  inBuffer : Memory.within s.cfg.fbLen s.fb
  frames : frameRun .outside s.trace = some f
  rstLine : s.rst = lastRst s.trace
  csLine : s.cs = lastCs s.trace
  dcLine : s.dc = lastDc s.trace

/-! ### While an operation runs -/

theorem Invariant.running_accept {s : State} (h : Invariant s) : Running .outside s.accept :=
  ⟨h.config, h.memory, h.inBuffer, h.frames, h.rstLine, h.csLine, h.dcLine⟩

theorem Running.withFb {f : FrameState} {s : State} (h : Running f s) {fb : List Host.Cell}
    (hwf : Memory.wf fb) (hin : Memory.within s.cfg.fbLen fb) : Running f { s with fb := fb } :=
  ⟨h.config, hwf, hin, h.frames, h.rstLine, h.csLine, h.dcLine⟩

theorem Running.setCtrl {f : FrameState} {s : State} (h : Running f s) (c : Ctrl) : Running f (s.setCtrl c) :=
  ⟨h.config, h.memory, h.inBuffer, h.frames, h.rstLine, h.csLine, h.dcLine⟩

/-- Events that lead from `f` to `g` in the frame grammar take the trace of a running operation from `f` to `g`. -/
theorem Running.frames_append {f g : FrameState} {s : State} (h : Running f s) {es : List Event}
    (hes : frameRun f es = some g) : frameRun .outside (s.trace ++ es) = some g := by
  rw [frameRun_append, h.frames]
  exact hes

theorem Running.pulseReset {s : State} (h : Running .outside s) (hseq : s.seq = [0]) :
    Running .outside (pulseResetBody s) := by
  obtain ⟨hrst, hcs, hdc⟩ := lines_resetPulseOf s.cfg (lastRst s.trace) (lastCs s.trace) (lastDc s.trace)
  rw [pulseResetBody_eq hseq]
  exact ⟨h.config, h.memory, h.inBuffer, h.frames_append (frameRun_resetPulseOf _),
    by rw [lastRst_append, hrst], by rw [lastCs_append, hcs]; exact h.csLine,
    by rw [lastDc_append, hdc]; exact h.dcLine⟩

/-- `NEW` powers up with an empty memory and the reset pulse in the trace. -/
theorem Running.poweredUp {s : State} (h : Running .outside s) (hseq : s.seq = [0]) :
    Running .outside s.poweredUp := by
  obtain ⟨-, -, -, hframes, hrst, hcs, hdc⟩ := h.pulseReset hseq
  rw [pulseResetBody_eq hseq] at hframes hrst hcs hdc
  exact ⟨h.config, List.Pairwise.nil, by simp [State.poweredUp, Memory.within], hframes, hrst, hcs, hdc⟩

theorem Invariant.running_startOf {s : State} (h : Invariant s) (i : Instr) : Running .outside (startOf i s) := by
  cases i
  case newDriver => exact h.running_accept.poweredUp rfl
  case fillScreen c => exact h.running_accept.withFb (State.fillAll_wf s.accept c) (State.fillAll_within s.accept c)
  all_goals exact h.running_accept

/-- Transmitting keeps it, and moves the trace on in the frame grammar. -/
theorem Running.sent {f g : FrameState} {s t : State} {es : List Event} (h : Running f s) (hs : Sent s t es)
    (hes : frameRun f es = some g) : Running g t := by
  rw [hs.only]
  exact ⟨h.config, h.memory, h.inBuffer, h.frames_append hes,
    by rw [lastRst_append, ← h.rstLine, hs.rst], by rw [lastCs_append, ← h.csLine],
    by rw [lastDc_append, ← h.dcLine]⟩

/-! ### Chip-select at the end of an operation (rule R43) -/

theorem Invariant.released_of_constructed {s : State} (h : Invariant s) (hc : constructed s.phase = true) :
    s.cs = .driven .inactive :=
  h.released fun hoff => by simp [hoff, constructed] at hc

/-- The initialisation table of a valid configuration has an entry (rules R8, R141). -/
theorem Config.Valid.initTable_ne_nil {c : Config} (h : Config.Valid c) : c.initTable ≠ [] := by
  intro hnil
  have htable := h.table
  simp [hnil, referenceInitTable] at htable

/-- An operation none of whose bytes failed leaves chip-select inactive: it was inactive before, and the frames
closed, or `NEW` sent the frames of a table that is not empty. -/
theorem Invariant.released_of_sent {i : Instr} {s t : State} {es : List Event} (h : Invariant s)
    (hs : Sent (startOf i s) t es) (hf : frameRun .outside es = some .outside)
    (hc : i ≠ .newDriver → constructed s.phase = true) (hn : i = .newDriver → es = framesOf s.cfg.initTable) :
    t.cs = .driven .inactive := by
  have hcs : t.cs = Machine.csLine (startOf i s).cs es := by rw [hs.only]
  rw [hcs]
  by_cases hi : i = .newDriver
  · rw [hn hi, csLine_framesOf, csAfter, if_neg h.config.initTable_ne_nil]
  · have hstart : (startOf i s).cs = s.cs := by cases i <;> rfl
    exact csLine_closed hf fun _ => by rw [hstart, h.released_of_constructed (hc hi)]

/-! ### The ways back to the invariant -/

theorem Invariant.latch {s : State} (h : Invariant s) (r : Request) (rest : List Request) :
    Invariant (s.latch r rest) := { h with }

theorem excCode_mem (e : Exc) : excCode e ∈ [0x01, 0x02, 0x03, 0x04, 0x05] := by cases e <;> decide

/-- A request turned away at acceptance. -/
theorem Invariant.raise {s : State} (h : Invariant s) (e : Exc) : Invariant (s.raise e) :=
  { h with
    noCode := fun herr => by simp at herr
    code := fun _ => ⟨rfl, excCode_mem e⟩
    recorded := fun _ => rfl
    failedNew := fun hp => ⟨rfl, (h.failedNew hp).2⟩ }

/-- A completed operation. -/
theorem Running.invariant_done {s : State} (h : Running .outside s) (hcs : s.cs = .driven .inactive) (r : Result) :
    Invariant (s.done r) where
  config := h.config
  notBusy := rfl
  notRunning := by simp
  memory := h.memory
  inBuffer := h.inBuffer
  frames := h.frames
  rstLine := h.rstLine
  csLine := h.csLine
  dcLine := h.dcLine
  released _ := hcs
  noCode _ := rfl
  code herr := by simp at herr
  recorded herr := by simp at herr
  powerOn hp := by simp at hp
  failedNew hp := by simp at hp
  levels := by simp

/-- An operation ended by the bounds policy leaves what a completed one leaves, but for the exception. -/
theorem Running.invariant_boundsViolation {s : State} (h : Running .outside s) (hcs : s.cs = .driven .inactive)
    (hseq : s.seq = [0]) : Invariant s.boundsViolation := by
  have hraised := (h.invariant_done hcs s.result).raise .boundsViolation
  exact { hraised with levels := by simp [hseq] }

/-- An operation stopped at a failed byte: the abort closes the frame that byte stood in. -/
theorem Running.invariant_abort {s : State} (h : Running .inside s)
    (hlevels : 1 ≤ s.seq.length ∧ s.seq.length ≤ 4) {p : Phase} (hp : p = .failed ∨ p = .idle) :
    Invariant (s.abort p) := by
  have htrace : (s.abort p).trace = s.trace ++ [.txFail, .cs .inactive] := by simp
  exact {
    config := h.config
    notBusy := rfl
    notRunning := by rcases hp with rfl | rfl <;> simp
    memory := h.memory
    inBuffer := h.inBuffer
    frames := by rw [htrace]; exact h.frames_append rfl
    rstLine := by rw [htrace, lastRst_append]; exact h.rstLine
    csLine := by rw [htrace, lastCs_append]; rfl
    dcLine := by rw [htrace, lastDc_append]; exact h.dcLine
    released := fun _ => rfl
    noCode := fun herr => by simp at herr
    code := fun _ => ⟨rfl, by simp⟩
    recorded := fun _ => rfl
    powerOn := fun hoff => by rcases hp with rfl | rfl <;> simp at hoff
    failedNew := fun _ => ⟨rfl, rfl⟩
    levels := hlevels }

/-- However an instruction ends, it ends in the invariant. -/
theorem Ends.invariant {i : Instr} {s t : State} (h : Invariant s) (he : Ends i s t) : Invariant t := by
  cases he with
  | turnedAway e he hi => exact h.raise e
  | outside hw hc => exact h.running_accept.invariant_boundsViolation (h.released_of_constructed hc) rfl
  | drew fb r hw hc hwf hin =>
    exact (h.running_accept.withFb (hwf h.memory) (hin h.inBuffer)).invariant_done (h.released_of_constructed hc) r
  | pulsed hi hc =>
    refine ((h.running_accept.pulseReset rfl).setCtrl .reset).invariant_done ?_ .ok
    rw [pulseResetBody_eq rfl]
    exact h.released_of_constructed hc
  | sent t es c hs hf hw hc hn =>
    exact (((h.running_startOf i).sent hs hf).setCtrl c).invariant_done (h.released_of_sent (t := t) hs hf hc hn) .ok
  | failed t es hs hf h1 h4 hw hc =>
    refine ((h.running_startOf i).sent hs hf).invariant_abort ⟨h1, h4⟩ ?_
    split
    · exact .inl rfl
    · exact .inr rfl

/-- Settles O18: the idle step changes nothing, and a request ends in the invariant from the state that has
loaded it. -/
theorem stepKeepsInvariant : Obligations.StepKeepsInvariant := by
  intro s t h hstep
  rcases step_ends hstep with rfl | ⟨r, rest, -, -, ⟨i, he⟩ | rfl⟩
  · exact h
  · exact he.invariant (h.latch r rest)
  · exact (h.latch r rest).raise .unknownOp

end Sys2Proof.Machine
end

section
/-! SUPPORT. What the decoder answers (O3, O5): an answered instruction is well formed and has the request's
space and code, and a host code reads the operand registers of its row alone. -/

namespace Sys2Proof

/-! ### Every register's value is in the register's range (rules R23, R25, R28) -/

@[simp] theorem fitsS16_toInt (v : BitVec 16) : fitsS16 v.toInt = true := by
  have hlo := BitVec.le_toInt v
  have hhi := BitVec.toInt_lt (x := v)
  simp only [fitsS16, Bool.and_eq_true, decide_eq_true_eq]
  omega

@[simp] theorem fitsU16_toNat (v : BitVec 16) : fitsU16 v.toNat = true := decide_eq_true v.isLt

@[simp] theorem fitsU8_toNat (v : BitVec 8) : fitsU8 v.toNat = true := decide_eq_true v.isLt

/-! ### The two spaces -/

theorem decodeHost_ok {op : Byte} {a : Operands} {i : Instr} (h : decodeHost op a = .ok i) :
    i.wellFormed = true ∧ i.space = .host ∧ i.opcode = op := by
  unfold decodeHost at h
  split at h
  case h_17 => simp at h
  all_goals
    rename_i hop
    obtain rfl := Except.ok.inj h
    exact ⟨by simp [Instr.wellFormed], rfl, BitVec.eq_of_toNat_eq hop.symm⟩

theorem decodeWire_ok {op : Byte} {a : Operands} {i : Instr} (h : decodeWire op a = .ok i) :
    i.wellFormed = true ∧ i.space = .wire ∧ i.opcode = op := by
  unfold decodeWire at h
  split at h
  case h_17 => simp at h
  all_goals
    rename_i hop
    obtain rfl := Except.ok.inj h
    exact ⟨by simp [Instr.wellFormed], rfl, BitVec.eq_of_toNat_eq hop.symm⟩

/-- Settles O3, in the space the request names. -/
theorem decodedIsWellFormed : Obligations.DecodedIsWellFormed := by
  rintro ⟨space, op, a⟩ i h
  cases space with
  | host => exact decodeHost_ok h
  | wire => exact decodeWire_ok h

/-- Settles O5, code by code: what rule R30 names for a code is all its arm of the decoder mentions. -/
theorem operationsReadTheirRegisters : Obligations.OperationsReadTheirRegisters := by
  intro op a b h
  unfold Machine.readsSame at h
  unfold decodeHost
  generalize op.toNat = n at h
  split
  all_goals simp_all

end Sys2Proof
end

section
/-! SUPPORT. What the state holds at power-on and after `NEW` (O16, O17), and what no instruction writes (O14, O19)
or takes back (O20). -/

namespace Sys2Proof.Machine

/-! ### Power-on (rule R54) -/

theorem referenceConfig_valid : Config.Valid referenceConfig where
  width := by decide
  height := by decide
  bounds _ := by decide
  hold := by decide
  table := rfl

/-- Settles O17: at power-on no event has happened and nothing is held. -/
theorem invariantAtReset : Obligations.InvariantAtReset where
  config := referenceConfig_valid
  notBusy := rfl
  notRunning := by decide
  memory := List.Pairwise.nil
  inBuffer := by simp [State.reset]
  frames := rfl
  rstLine := rfl
  csLine := rfl
  dcLine := rfl
  released h := absurd rfl h
  noCode _ := rfl
  code h := nomatch h
  recorded h := nomatch h
  powerOn _ := ⟨rfl, rfl, rfl⟩
  failedNew h := nomatch h
  levels := by decide

/-! ### A successful `NEW` (rule R181) -/

/-- `NEW` none of whose bytes fails. -/
theorem exec_newDriver_going {s : State} (hbusy : s.busy = false) (h : NoTxFails s s.cfg.initTable.length) :
    exec .newDriver s = .next
      { ({ s.finished .ok with
            trace := s.trace ++ resetPulseOf s.cfg, rst := .driven .high } : State).framesSent s.cfg.initTable with
        fb := [], fbGen := s.fbGen + 1, ctrl := .configured } := by
  have hbody := newBody_going (s := s.accept) rfl (h.congr rfl rfl)
  rw [exec, execNewDriver, onRequest_free hbusy, hbody]
  rfl

theorem ptrAfter_commands {ws : List WireByte} (h : ∀ w ∈ ws, w.1 = .cmd) (p : Nat) : ptrAfter ws p = p := by
  have hnone : ws.any (fun w => decide (w.1 = .data)) = false := by
    simp only [List.any_eq_false, decide_eq_true_eq]
    intro w hw
    simp [h w hw]
  simp [ptrAfter, hnone]

theorem step_decoded {s : State} {r : Request} {rest : List Request} {i : Instr} (hh : s.host = r :: rest)
    (hd : decodeRequest r = .ok i) : step s = exec i (s.latch r rest) := by
  simp only [step, fetch, hh, hd]

/-- Settles O16: the reset state field by field, and the state `NEW` leaves when none of its bytes fails. -/
theorem powerOnAndNewValues : Obligations.PowerOnAndNewValues := by
  refine ⟨⟨rfl, rfl, rfl, rfl, rfl, rfl, rfl, rfl, rfl, rfl, rfl, rfl⟩, ?_, ?_⟩
  · intro s rest a hhost hbusy htable hnoFail
    have hstep := (step_decoded hhost (i := .newDriver) rfl).trans
      (exec_newDriver_going (s := s.latch _ rest) hbusy (by rw [State.latch_cfg, htable]; exact hnoFail))
    rw [State.latch_cfg, htable] at hstep
    exact ⟨_, hstep, rfl, rfl, rfl, rfl, rfl, rfl, rfl, rfl, rfl, rfl, rfl, rfl, rfl, fun _ => rfl, rfl⟩
  · intro s hbusy hcmd hnoFail
    exact ⟨_, exec_newDriver_going hbusy hnoFail, ptrAfter_commands hcmd 0⟩

/-! ### What no instruction writes (rules R31, R49) -/

/-- The fields no instruction writes: the operand registers, `OP`, the host's list and the configuration. -/
abbrev SameInputs (s t : State) : Prop := t.args = s.args ∧ t.op = s.op ∧ t.host = s.host ∧ t.cfg = s.cfg

theorem sameInputs_startOf (i : Instr) (s : State) : SameInputs s (startOf i s) := by
  cases i <;> exact ⟨rfl, rfl, rfl, rfl⟩

theorem Sent.sameInputs {s t : State} {es : List Event} (h : Sent s t es) : SameInputs s t := by
  rw [h.only]
  exact ⟨rfl, rfl, rfl, rfl⟩

theorem SameInputs.trans {s t u : State} (h : SameInputs s t) (h' : SameInputs t u) : SameInputs s u := by
  obtain ⟨hargs, hop, hhost, hcfg⟩ := h
  obtain ⟨hargs', hop', hhost', hcfg'⟩ := h'
  exact ⟨hargs'.trans hargs, hop'.trans hop, hhost'.trans hhost, hcfg'.trans hcfg⟩

theorem Ends.sameInputs {i : Instr} {s t : State} (he : Ends i s t) : SameInputs s t := by
  cases he with
  | turnedAway | outside | drew => exact ⟨rfl, rfl, rfl, rfl⟩
  | pulsed =>
    rw [pulseResetBody_eq (s := s.accept) rfl]
    exact ⟨rfl, rfl, rfl, rfl⟩
  | sent t es c hs => exact (sameInputs_startOf i s).trans hs.sameInputs
  | failed t es hs => exact (sameInputs_startOf i s).trans hs.sameInputs

/-- Settles O14, over every way an instruction can end. -/
theorem operandRegistersAreLeft : Obligations.OperandRegistersAreLeft :=
  fun _ _ _ h => (exec_ends h).2.sameInputs

/-- Settles O19: loading a request leaves the configuration, and so does every ending. -/
theorem stepKeepsConfiguration : Obligations.StepKeepsConfiguration := by
  intro s t hstep
  rcases step_ends hstep with rfl | ⟨r, rest, -, -, ⟨i, he⟩ | rfl⟩
  · rfl
  · obtain ⟨-, -, -, hcfg⟩ := he.sameInputs
    exact hcfg
  · rfl

/-! ### The trace only grows (rule R47) -/

theorem Sent.trace_eq {s t : State} {es : List Event} (h : Sent s t es) : t.trace = s.trace ++ es := by
  rw [h.only]

theorem Ends.trace_append {i : Instr} {s t : State} (he : Ends i s t) : ∃ es, t.trace = s.trace ++ es := by
  obtain ⟨pre, hpre, -, -⟩ := startOf_trace i s
  cases he with
  | turnedAway | outside | drew => exact ⟨[], by simp⟩
  | pulsed => exact ⟨resetPulseOf s.cfg, by rw [pulseResetBody_eq (s := s.accept) rfl]; rfl⟩
  | sent t es c hs => exact ⟨pre ++ es, by simp [hs.trace_eq, hpre]⟩
  | failed t es hs => exact ⟨pre ++ es ++ [.txFail, .cs .inactive], by simp [hs.trace_eq, hpre]⟩

/-- Settles O20: the idle step and an unknown code append nothing, an instruction what its ending appends. -/
theorem traceIsAppendOnly : Obligations.TraceIsAppendOnly := by
  intro s t hstep
  rcases step_ends hstep with rfl | ⟨r, rest, -, -, ⟨i, he⟩ | rfl⟩
  · exact ⟨[], by simp⟩
  · exact he.trace_append
  · exact ⟨[], by simp⟩

end Sys2Proof.Machine
end

section
/-! SUPPORT. Nothing reads the trace, the ghost `CTRL` or the flags (O22, O23, O24): a change of these fields is
inert, and what is left of it when an instruction has ended is the events before the trace and the ghost. -/

namespace Sys2Proof.Machine

/-- Other values of what nothing reads: events put before the trace, the ghost and the flags changed. -/
def State.unread (es : List Event) (g : Ctrl → Ctrl) (e : Bool → Bool) (k : Byte → Byte) (s : State) : State :=
  { s with trace := es ++ s.trace, ctrl := g s.ctrl, err := e s.err, errCode := k s.errCode }

section
variable (es : List Event) (g : Ctrl → Ctrl) (e : Bool → Bool) (k : Byte → Byte)

@[simp] theorem State.unread_cfg (s : State) : (s.unread es g e k).cfg = s.cfg := rfl

theorem inert_unread : Inert (State.unread es g e k) where
  cfg _ := rfl
  busy _ := rfl
  phase _ := rfl
  fbByte _ _ := rfl
  ptr _ := rfl
  nextDraw _ := rfl
  accept _ := rfl
  emitRst _ _ := by simp [State.unread, State.emitRst]
  emitCs _ _ := by simp [State.unread, State.emitCs]
  emitDc _ _ := by simp [State.unread, State.emitDc]
  wait _ _ := by simp [State.unread, State.wait]
  nextStep _ := rfl
  enter _ := rfl
  leave _ := rfl
  openData _ := rfl
  nextByte _ := rfl
  drawn _ := rfl
  sent _ _ := by simp [State.unread, State.sent]
  put s p c := by
    unfold State.put
    rw [State.unread_cfg]
    split <;> rfl
  fillAll _ _ := rfl

/-- `NEW` overwrites the ghost and the flags before it transmits. -/
theorem State.unread_poweredUp (s : State) :
    (s.unread es g e k).poweredUp = s.poweredUp.unread es id id id := by
  simp [State.poweredUp, State.unread]

theorem newBody_unread {s : State} (hseq : s.seq = [0]) :
    newBody (s.unread es g e k) = (newBody s).map (State.unread es id id id) := by
  have hf := inert_unread es id id id
  rw [newBody_eq hseq, newBody_eq (s := s.unread es g e k) hseq, State.unread_poweredUp,
    hf.call (hf.sendBytes _), Flow.map_thenDo hf.nextStep]
  rfl

/-- An abort overwrites the ghost and the flags. -/
theorem State.unread_abort (s : State) (p : Phase) :
    (s.unread es g e k).abort p = (s.abort p).unread es id id id := by
  simp [State.abort, State.unread, State.sendFailed, State.emitCs, State.raise]

theorem Flow.conclude_unread (F : Flow) (c : Ctrl) (p : Phase) :
    (F.map (State.unread es id id id)).conclude c p = (F.conclude c p).unread es id id id := by
  cases F with
  | going s => rfl
  | failed s => exact s.unread_abort es id id id p

/-- `u` is `t` with the events before its trace and, unless the ghost was left alone, some value of the ghost. -/
def UnreadApart (t u : State) : Prop := ∃ c, u = t.unread es (fun _ => c) id id ∧ (g = id → c = t.ctrl)

/-- An instruction stops the same way, or answers the same state apart from the events and the ghost: every ending
overwrites the flags, and no ending reads the ghost but to write it. -/
theorem exec_unread (i : Instr) (s : State) :
    (exec i s = .fault .requestWhileBusy ∧ exec i (s.unread es g e k) = .fault .requestWhileBusy) ∨
      ∃ t u, exec i s = .next t ∧ exec i (s.unread es g e k) = .next u ∧ UnreadApart es g t u := by
  apply exec_related (inert_unread es g e k) (UnreadApart es g) (P := fun c c' => g = id → c' = c)
  case hP => rintro s op rfl; rfl
  case hP' => exact fun _ _ => rfl
  case hsent => exact fun s c c' hc => ⟨c', rfl, hc⟩
  case hdone => exact fun s r => ⟨g s.ctrl, rfl, fun hg => congrFun hg s.ctrl⟩
  case habort => exact fun s p => ⟨.undefined, s.unread_abort es g e k p, fun _ => rfl⟩
  case hraise => exact fun s x => ⟨g s.ctrl, rfl, fun hg => congrFun hg s.ctrl⟩
  case hbounds => exact fun s => ⟨g s.ctrl, rfl, fun hg => congrFun hg s.ctrl⟩
  case hnew =>
    intro s
    refine ⟨_, ?_, fun _ => rfl⟩
    rw [(inert_unread es g e k).accept, newBody_unread es g e k rfl, Flow.conclude_unread]
    rfl

end

/-- Settles O22: events put before the trace, the ghost and the flags left alone. -/
theorem traceIsNeverRead : Obligations.TraceIsNeverRead := by
  intro i s es
  change exec i (s.unread es id id id) = _
  rcases exec_unread es id id id i s with ⟨hs, hu⟩ | ⟨t, _, hs, hu, c, rfl, hc⟩
  · rw [hu, hs]
  · rw [hu, hs, hc rfl]
    rfl

/-- Settles O23: the ghost replaced, and no events before the trace. -/
theorem controllerContextIsNeverRead : Obligations.ControllerContextIsNeverRead := by
  intro i s t c hexec
  rcases exec_unread [] (fun _ => c) id id i s with ⟨hs, -⟩ | ⟨t', _, hs, hu, c', rfl, -⟩
  · simp [hs] at hexec
  · obtain rfl : t' = t := by simpa [hs] using hexec
    exact ⟨c', hu⟩

/-- Settles O24: the flags replaced, no events before the trace and the ghost left alone. -/
theorem flagsAreNeverRead : Obligations.FlagsAreNeverRead := by
  intro i s e k
  change exec i (s.unread [] id (fun _ => e) (fun _ => k)) = _
  rcases exec_unread [] id (fun _ => e) (fun _ => k) i s with ⟨hs, hu⟩ | ⟨t, _, hs, hu, c, rfl, hc⟩
  · rw [hu, hs]
  · rw [hu, hs, hc rfl]
    rfl

end Sys2Proof.Machine
end

section
/-! SUPPORT. What the memory family settles: a drawing operation changes nothing on the wire (O35), and where a
pixel's two bytes stand in the bytes a flush sends (O53). -/

namespace Sys2Proof.Machine

/-! ### Drawing and the wire (rules R77, R199) -/

/-- What no drawing operation changes: the trace, the three lines, the ghost `CTRL`, the channel's draws and the
count of fresh buffers. -/
abbrev SameWire (s t : State) : Prop :=
  t.trace = s.trace ∧ t.rst = s.rst ∧ t.cs = s.cs ∧ t.dc = s.dc ∧ t.ctrl = s.ctrl ∧
    t.draws = s.draws ∧ t.drawCount = s.drawCount ∧ t.fbGen = s.fbGen

theorem Ends.sameWire {i : Instr} {s t : State} (hi : isDrawing i = true) (he : Ends i s t) : SameWire s t := by
  cases he with
  | turnedAway | outside | drew => exact ⟨rfl, rfl, rfl, rfl, rfl, rfl, rfl, rfl⟩
  | pulsed hp =>
    subst hp
    exact absurd hi (by decide)
  | sent _ _ _ _ _ hw => simp [hi] at hw
  | failed _ _ _ _ _ _ hw => simp [hi] at hw

/-- Settles O35: an operation with one of these codes ends without transmitting and without a reset pulse. -/
theorem drawingTouchesNoWire : Obligations.DrawingTouchesNoWire :=
  fun i _ _ hspace hlo hhi hexec =>
    (exec_ends hexec).2.sameWire ((isDrawing_iff i).mpr ⟨hspace, hlo, hhi⟩)

/-! ### A pixel among the bytes of the framebuffer (rules R61, R63, R64) -/

/-- The bytes stored for a colour that was read are the bytes it was read from, under either order. -/
@[simp] theorem colorBytes_colorOfBytes (o : ByteOrder) (b0 b1 : Byte) :
    colorBytes o (colorOfBytes o b0 b1) = (b0, b1) := by
  cases o <;> simp [colorBytes, colorOfBytes, lo8_append, hi8_append]

/-- A pixel that reads as a colour lies inside, and its two bytes are the colour's in the order of rule R63. -/
theorem State.colorBytes_of_get {s : State} {x y : Int} {c : Color} (h : s.get x y = some c) :
    inb s.cfg x y = true ∧
      colorBytes s.cfg.fbByteOrder c = (s.fbByte (off s.cfg x y), s.fbByte (off s.cfg x y + 1)) := by
  unfold State.get at h
  split at h
  · obtain rfl := Option.some.inj h
    exact ⟨‹_›, colorBytes_colorOfBytes _ _ _⟩
  · simp at h

theorem State.fbBytes_getElem? {s : State} {a : Nat} (h : a < s.cfg.fbLen) :
    s.fbBytes[a]? = some (s.fbByte a) := by
  simp [State.fbBytes, h]

/-- Settles O53: the pixel lies inside, so both its bytes are sent, each at its own address. -/
theorem flushedPixelBytes : Obligations.FlushedPixelBytes := by
  intro s x y c horder hget
  obtain ⟨hin, hbytes⟩ := State.colorBytes_of_get hget
  have hlt := off_lt hin
  rw [horder, colorBytes, Prod.mk.injEq] at hbytes
  obtain ⟨hlo, hhi⟩ := hbytes
  rw [hlo, hhi]
  exact ⟨State.fbBytes_getElem? (Nat.lt_of_succ_lt hlt), State.fbBytes_getElem? hlt⟩

end Sys2Proof.Machine
end

section
/-! SUPPORT. The encoding family: the decoder undoes the encoder (O2), the byte trace of a wire command decodes to
it (O4) and is the one the spec gives (O6), a few table words (O1), and what a step and a wire command do with what
was decoded (O9, O34). -/

namespace Sys2Proof

/-! ### An operand that fits its register is read back from it (rules R23, R25, R28) -/

theorem toInt_ofInt_of_fitsS16 {v : Int} (h : fitsS16 v = true) : (BitVec.ofInt 16 v).toInt = v := by
  simp only [fitsS16, Bool.and_eq_true, decide_eq_true_eq] at h
  obtain ⟨hlo, hhi⟩ := h
  rw [BitVec.toInt_ofInt, Int.bmod_eq_of_le] <;> norm_num <;> omega

theorem toNat_ofNat_of_fitsU16 {v : Nat} (h : fitsU16 v = true) : (BitVec.ofNat 16 v).toNat = v :=
  (BitVec.toNat_ofNat v 16).trans (Nat.mod_eq_of_lt (of_decide_eq_true h))

theorem toNat_ofNat_of_fitsU8 {v : Nat} (h : fitsU8 v = true) : (BitVec.ofNat 8 v).toNat = v :=
  (BitVec.toNat_ofNat v 8).trans (Nat.mod_eq_of_lt (of_decide_eq_true h))

/-! ### The decoder undoes the encoder (rules R91, R93, R96) -/

/-- Settles O2. An instruction's code selects its own arm of the decoder, which reads from the registers what the
encoder put there; what a register of limited range holds is the operand because the operand fits it. -/
theorem decodeOfEncode : Obligations.DecodeOfEncode := by
  intro i h
  cases i
  case setWindow | wWinCol | wWinRow =>
    simp only [Instr.wellFormed, Bool.and_eq_true] at h
    simp only [encode, decodeRequest, decodeHost, decodeWire, Instr.operands, toNat_ofNat_of_fitsU8, h]
    rfl
  case setPixel | getPixel | fillRect | rect | drawText | scaledText =>
    simp only [Instr.wellFormed, Bool.and_eq_true] at h
    simp only [encode, decodeRequest, decodeHost, Instr.operands, toInt_ofInt_of_fitsS16,
      toNat_ofNat_of_fitsU16, h]
    rfl
  all_goals rfl

/-! ### The byte trace of a wire command (rules R96, R97, R106) -/

/-- Data bytes are taken off the front of a byte trace whatever follows them. -/
theorem takeData_map_data (bs : List Byte) (rest : List WireByte) :
    takeData bs.length (bs.map (fun b => (.data, b)) ++ rest) = some (bs, rest) := by
  induction bs with
  | nil => rfl
  | cons b bs ih => simp [takeData, ih]

theorem expectOperands_self (i : Instr) (bs : List Byte) : expectOperands i bs bs = some i := if_pos rfl

/-- A command byte with as many operand bytes as its opcode takes decodes to what opcode and operands say. -/
theorem decodeByteTrace_wireCommand {c : Config} {op : Byte} {bs : List Byte} {i : Instr} (rest : List WireByte)
    (hcount : operandCount c op = some bs.length) (hinstr : wireInstr c op bs = some i) :
    decodeByteTrace c (wireCommand op bs ++ rest) = .ok (i, rest) := by
  simp only [wireCommand, List.cons_append, decodeByteTrace, hcount, takeData_map_data, hinstr]

/-- A bound of 8 bits is got back from its offset form. -/
theorem unOffset_add {off a : Nat} (ha : a < 256) : unOffset off (a + off) = some a := by
  simp [unOffset, ha]

/-- A value of 16 bits is got back from its two bytes, high byte first. -/
theorem toNat_high_add_low {v : Nat} (hv : v < 65536) :
    (BitVec.ofNat 8 (v / 256)).toNat * 256 + (BitVec.ofNat 8 v).toNat = v := by
  simp only [BitVec.toNat_ofNat]
  omega

/-- A bound of 8 bits is got back from one byte of its offset form, by subtraction modulo 256. -/
theorem toNat_ofNat_add_sub {off a : Nat} (ha : a < 256) :
    (BitVec.ofNat 8 (a + off) - BitVec.ofNat 8 off).toNat = a := by
  rw [BitVec.ofNat_add, BitVec.add_sub_cancel]
  exact toNat_ofNat_of_fitsU8 (decide_eq_true ha)

/-- The two bounds of a generic window command are got back from their bytes, under both values of
`WIN_BOUND_BYTES` (rules R102, R103). -/
theorem boundsOf_boundBytes (w : BoundBytes) {off a e : Nat} (hoff : off < 256) (ha : a < 256) (he : e < 256) :
    boundsOf w off (boundBytes w (a + off) ++ boundBytes w (e + off)) = some (a, e) := by
  cases w with
  | one =>
    simp only [boundBytes, List.cons_append, List.nil_append, boundsOf, toNat_ofNat_add_sub ha,
      toNat_ofNat_add_sub he]
  | two =>
    have hfits : ∀ v, v < 256 → v + off < 65536 := by omega
    simp only [boundBytes, List.cons_append, List.nil_append, boundsOf, toNat_high_add_low (hfits a ha),
      toNat_high_add_low (hfits e he), unOffset_add ha, unOffset_add he]

/-- The operand bytes of a generic window command are as many as `WIN_BOUND_BYTES` says. -/
theorem operandCount_window (c : Config) {op : Byte} (hop : op = 0x2A ∨ op = 0x2B) (v u : Nat) :
    operandCount c op = some (boundBytes c.winBoundBytes v ++ boundBytes c.winBoundBytes u).length := by
  rcases hop with rfl | rfl <;> simp only [operandCount, boundBytes] <;> cases c.winBoundBytes <;> rfl

/-- Settles O4. Each wire command is a command byte with its operands; the operands are the ones the decoder
expects, and the bounds of a window command come back from their bytes. -/
theorem byteTraceDecodes : Obligations.ByteTraceDecodes := by
  intro c i rest h hspace
  cases i
  case wWinCol xs xe =>
    simp only [Instr.wellFormed, fitsU8, Bool.and_eq_true, decide_eq_true_eq] at h
    obtain ⟨hxs, hxe⟩ := h
    have hbounds := boundsOf_boundBytes c.winBoundBytes (off := xOff) (by decide) hxs hxe
    exact decodeByteTrace_wireCommand rest (operandCount_window c (.inl rfl) _ _) (by simp [wireInstr, hbounds])
  case wWinRow ys ye =>
    simp only [Instr.wellFormed, fitsU8, Bool.and_eq_true, decide_eq_true_eq] at h
    obtain ⟨hys, hye⟩ := h
    have hbounds := boundsOf_boundBytes c.winBoundBytes (off := yOff) (by decide) hys hye
    exact decodeByteTrace_wireCommand rest (operandCount_window c (.inr rfl) _ _) (by simp [wireInstr, hbounds])
  case wDisplayOn | wAddrModeSetup | wMemAddrMode | wMuxRatio | wDisplayOffset | wClockDiv | wPrecharge | wComPins
    | wVcomh | wSegRemap | wFullCol | wFullRow | wRamwrFull | wRamwrWin =>
    exact decodeByteTrace_wireCommand rest rfl (expectOperands_self _ _)
  all_goals cases hspace

/-- Settles O6: the commands without bounds by computation, the window commands for each size of a bound. -/
theorem wireCommandBytes : Obligations.WireCommandBytes := by
  refine ⟨fun c => ⟨rfl, rfl, rfl, rfl, rfl, rfl, rfl, rfl, rfl, rfl, rfl, rfl, rfl, rfl⟩, ?_, ?_⟩
  all_goals
    intro c a e hw
    constructor
    · rw [wireBytes, winColBytes, hw]; rfl
    · rw [wireBytes, winRowBytes, hw]; rfl

/-! ### Table words -/

/-- Settles O1, word by word. -/
theorem tableWordsDecode : Obligations.TableWordsDecode := ⟨rfl, rfl, rfl, rfl, rfl, rfl, rfl⟩

end Sys2Proof

namespace Sys2Proof.Machine

/-- Settles O9: the request's registers are loaded, and the step runs what the request decodes to. -/
theorem stepRunsTheDecodedInstruction : Obligations.StepRunsTheDecodedInstruction :=
  fun _ _ _ _ hhost hdecode => step_decoded hhost hdecode

/-! ### A wire command run alone (rules R99, R145 to R160) -/

/-- Every wire command sends its byte trace with the ghost effect of its own code. -/
theorem exec_wire {i : Instr} (h : i.space = .wire) (s : State) :
    exec i s = wireOp s (wireBytes s.cfg i) i.opcode := by
  cases i
  case wDisplayOn | wAddrModeSetup | wMemAddrMode | wMuxRatio | wDisplayOffset | wClockDiv | wPrecharge | wComPins
    | wVcomh | wSegRemap | wFullCol | wFullRow | wRamwrFull | wWinCol | wWinRow | wRamwrWin => rfl
  all_goals cases h

/-- The wire commands whose code is a trigger's are the two RAM-write triggers (rules R157, R160). -/
theorem isTrigger_opcode_iff {i : Instr} (h : i.space = .wire) :
    isTrigger i.opcode = true ↔ i = .wRamwrFull ∨ i = .wRamwrWin := by
  cases i <;> simp [Instr.space, Instr.opcode, isTrigger] at h ⊢

/-- `CTRL` after a wire command run alone: only a trigger opens, and only from an initialised controller. -/
theorem ctrlAfterCommand_opcode {i : Instr} (h : i.space = .wire) (c : Ctrl) :
    ctrlAfterCommand i.opcode c =
      if (i = .wRamwrFull ∨ i = .wRamwrWin) ∧ (c = .configured ∨ c = .ramOpen) then .ramOpen else .undefined := by
  simp only [ctrlAfterCommand, isTrigger_opcode_iff h, ctrlOpened_eq, ite_and]

/-- Settles O34: the command's byte trace is transmitted, to its end or to the byte that fails. -/
theorem wireCommandEmitsItsFrames : Obligations.WireCommandEmitsItsFrames := by
  intro i s hspace hready
  rw [exec_wire hspace, wireOp, ctrlAfterCommand_opcode hspace]
  exact ⟨transmit_sendBytes_going hready, fun _ _ => transmit_sendBytes_failed hready⟩

end Sys2Proof.Machine
end

section
/-! SUPPORT. The bus transport family: every step appends whole frames (O21), and what `WRITE_COMMAND` (O28),
`WRITE_DATA` (O29) and `PULSE_RESET` (O30) put on the wire and leave. -/

namespace Sys2Proof.Machine

/-! ### Whole frames (rule R125) -/

/-- A trace with events after it whose frames are whole. -/
def AppendsFrames (before after : List Event) : Prop :=
  ∃ es, after = before ++ es ∧ frameRun .outside es = some .outside

theorem AppendsFrames.refl (es : List Event) : AppendsFrames es es := ⟨[], (List.append_nil es).symm, rfl⟩

theorem AppendsFrames.bracketed {before after : List Event} (h : AppendsFrames before after)
    (hb : bracketed before) : bracketed after := by
  obtain ⟨es, rfl, hes⟩ := h
  rw [Machine.bracketed, frameRun_append, hb]
  exact hes

/-- However an instruction ends, the events it appended are whole frames: a run that stopped at a failed byte
stands inside a frame, which the abort closes. -/
theorem Ends.appendsFrames {i : Instr} {s t : State} (he : Ends i s t) : AppendsFrames s.trace t.trace := by
  obtain ⟨pre, hpre, hwhole, -⟩ := startOf_trace i s
  cases he with
  | turnedAway | outside | drew => exact .refl _
  | pulsed =>
    rw [pulseResetBody_eq (s := s.accept) rfl]
    exact ⟨resetPulseOf s.cfg, rfl, frameRun_resetPulseOf s.cfg⟩
  | sent t es c hs hf =>
    refine ⟨pre ++ es, by simp [hs.trace_eq, hpre], ?_⟩
    rw [frameRun_append, hwhole]
    exact hf
  | failed t es hs hf =>
    refine ⟨pre ++ (es ++ [.txFail, .cs .inactive]), by simp [hs.trace_eq, hpre], ?_⟩
    rw [frameRun_append, hwhole, Option.bind_some, frameRun_append, hf]
    rfl

/-- Settles O21: the idle step and an unknown code append nothing, an instruction appends whole frames. -/
theorem stepKeepsTraceBracketed : Obligations.StepKeepsTraceBracketed := by
  intro s t hb hstep
  rcases step_ends hstep with rfl | ⟨r, rest, -, -, ⟨i, he⟩ | rfl⟩
  · exact hb
  · exact he.appendsFrames.bracketed hb
  · exact hb

/-! ### The ghost `CTRL` after a byte sent by the host (rules R121, R122, R250) -/

theorem isTrigger_iff (b : Byte) : isTrigger b = true ↔ b = 0x5C ∨ b = 0x2C := by
  simp [isTrigger]

theorem ctrlAfterCommand_eq (b : Byte) (c : Ctrl) :
    ctrlAfterCommand b c =
      if (b = 0x5C ∨ b = 0x2C) ∧ (c = .configured ∨ c = .ramOpen) then .ramOpen else .undefined := by
  simp only [ctrlAfterCommand, isTrigger_iff, ctrlOpened_eq, ite_and]

theorem ctrlAfterData_eq (c : Ctrl) : ctrlAfterData c = if c = .ramOpen then .ramOpen else .undefined := by
  cases c <;> rfl

/-! ### The three operations -/

/-- The abort closes the frame after the failed byte and leaves what every transport failure leaves (rule R214). -/
theorem State.abort_eq (s : State) (p : Phase) :
    s.abort p = { s.transportFailed p with trace := s.trace ++ [.txFail, .cs .inactive] } := by
  simp [State.abort, State.sendFailed, State.emitCs, State.raise, State.transportFailed, excCode]

/-- Settles O28: one command frame, from the sequencer and `PTR` as the acceptance sets them. -/
theorem writeCommandSendsOneByte : Obligations.WriteCommandSendsOneByte := by
  refine ⟨fun _ => rfl, fun s b hready => ?_⟩
  rw [exec, execWriteCommand, transmit_ready hready, ctrlAfterCommand_eq]
  constructor
  · intro hsent
    rw [writeCommandBody_going (s := s.accept) (k := 0) (ks := []) rfl hsent]
    rfl
  · intro hfails
    rw [writeCommandBody_failed (s := s.accept) (k := 0) (ks := []) rfl hfails, Flow.failed_conclude,
      State.abort_eq, List.append_assoc]
    rfl

/-- Settles O29: one data frame, whole or cut at the first byte that fails. -/
theorem writeDataSendsTheBlob : Obligations.WriteDataSendsTheBlob := by
  refine ⟨fun _ => rfl, fun s blob hready => ?_⟩
  rw [exec, execWriteData, transmit_ready hready, ctrlAfterData_eq]
  constructor
  · intro hsent
    rw [writeDataBody_going (s := s.accept) (k := 0) (ks := []) rfl (hsent.congr rfl rfl)]
    rfl
  · intro n hn hfails
    rw [writeDataBody_failed (s := s.accept) (k := 0) (ks := []) rfl hn (hfails.congr rfl rfl),
      Flow.failed_conclude, State.abort_eq, List.append_assoc, List.append_assoc]
    rfl

/-- Settles O30: the acceptance, the pulse, and the completion, none of which draws from the channel. -/
theorem pulseResetPulses : Obligations.PulseResetPulses := by
  refine ⟨fun _ => rfl, fun s hready => ?_⟩
  rw [exec, execPulseReset, onDriverRequest_ready hready, pulseResetBody_eq (s := s.accept) (k := 0) (ks := []) rfl,
    List.append_assoc]
  rfl

end Sys2Proof.Machine
end

section
/-! SUPPORT. The controller protocol family: the INIT table (O7) and the opcodes of the two addressing paths (O8), and
what `INITIALIZE` (O31), `SET_FULL_WINDOW` (O32) and `SET_WINDOW` (O33) put on the wire and leave. -/

namespace Sys2Proof.Machine

/-! ### The byte traces (rules R141, R162) -/

/-- Settles O7: both lists are the reference table, entry by entry; none of the ten steps has a byte that depends on
the configuration. -/
theorem initTableEntries : Obligations.InitTableEntries := ⟨rfl, fun _ => rfl⟩

/-- The opcodes of a byte trace: its bytes of class command, in order. -/
def commandBytes (ws : List WireByte) : List Byte := ws.filterMap fun w => if w.1 = .cmd then some w.2 else none

@[simp] theorem commandBytes_append (ws vs : List WireByte) :
    commandBytes (ws ++ vs) = commandBytes ws ++ commandBytes vs := List.filterMap_append

/-- The opcode of a wire command is its one command byte, whatever its operands are (rule R95). -/
@[simp] theorem commandBytes_wireCommand (op : Byte) (bs : List Byte) : commandBytes (wireCommand op bs) = [op] := by
  simp [commandBytes, wireCommand, List.filterMap_map]

/-- Settles O8: each path is three wire commands, and each of them gives its opcode. -/
theorem addressingPathsShareNoOpcode : Obligations.AddressingPathsShareNoOpcode := by
  intro c xs ys xe ye
  constructor
  · change commandBytes (fullWindowBytes c) = _
    simp [fullWindowBytes, fullColBytes, fullRowBytes, ramwrFullBytes]
  · change commandBytes (windowBytes c xs ys xe ye) = _
    simp [windowBytes, winColBytes, winRowBytes, ramwrWinBytes]

/-! ### Each operation transmits one byte trace

The byte trace is read from the configuration, which the acceptance leaves alone. -/

/-- Only what a body does to the accepted state counts. -/
theorem transmit_congr {s : State} {body body' : State → Flow} (h : body s.accept = body' s.accept) (c : Ctrl) :
    transmit s body c = transmit s body' c := by
  simp only [transmit, onDriverRequest, onRequest, h]

theorem exec_initController (s : State) :
    exec .initController s = transmit s (sendBytes s.cfg.initTable) (ctrlInitialized s.ctrl) :=
  transmit_congr (by rw [initializeBody, State.accept_cfg]) _

theorem exec_setFullWindow (s : State) :
    exec .setFullWindow s = transmit s (sendBytes (fullWindowBytes s.cfg)) (ctrlOpened s.ctrl) :=
  transmit_congr (by rw [fullWindowBody, State.accept_cfg]) _

theorem exec_setWindow (xs ys xe ye : Nat) (s : State) :
    exec (.setWindow xs ys xe ye) s = transmit s (sendBytes (windowBytes s.cfg xs ys xe ye))
      (ctrlAfterWindow (windowOk s.cfg xs ys xe ye) s.ctrl) :=
  transmit_congr (by rw [State.accept_cfg]) _

/-! ### The ghost `CTRL` afterwards (rules R142, R144, R250) -/

theorem ctrlInitialized_eq (c : Ctrl) : ctrlInitialized c = if c = .reset then .configured else .undefined := by
  cases c <;> rfl

theorem windowOk_iff (c : Config) (xs ys xe ye : Nat) :
    windowOk c xs ys xe ye = true ↔ xs ≤ xe ∧ xe < c.width ∧ ys ≤ ye ∧ ye < c.height := by
  simp only [windowOk, Bool.and_eq_true, decide_eq_true_eq, and_assoc]

theorem ctrlAfterWindow_windowOk (c : Config) (xs ys xe ye : Nat) (k : Ctrl) :
    ctrlAfterWindow (windowOk c xs ys xe ye) k =
      if (xs ≤ xe ∧ xe < c.width ∧ ys ≤ ye ∧ ye < c.height) ∧ (k = .configured ∨ k = .ramOpen) then .ramOpen
      else .undefined := by
  simp only [ctrlAfterWindow, windowOk_iff, ctrlOpened_eq, ite_and]

/-! ### The three operations -/

/-- Settles O31: the table is transmitted, to its end or to the entry that fails; with the table of rule R141 the
last frame is a command's. -/
theorem initializeSendsTheTable : Obligations.InitializeSendsTheTable := by
  refine ⟨fun _ => rfl, fun s hready => ?_⟩
  rw [exec_initController, ctrlInitialized_eq]
  refine ⟨transmit_sendBytes_going hready, fun _ _ => transmit_sendBytes_failed hready, fun htable hsent => ?_⟩
  have hlength : s.cfg.initTable.length = 18 := by rw [htable]; rfl
  exact ⟨_, transmit_sendBytes_going hready (hlength ▸ hsent), congrArg (csAfter · s.cs) htable,
    congrArg (dcAfter · s.dc) htable, rfl, congrArg (s.trace ++ framesOf ·) htable⟩

/-- Settles O32: the seven bytes are the byte trace of the full-window path. -/
theorem setFullWindowSendsSevenFrames : Obligations.SetFullWindowSendsSevenFrames := by
  refine ⟨fun _ => rfl, fun s bytes hready hbytes => ?_⟩
  obtain rfl : bytes = fullWindowBytes s.cfg := hbytes
  rw [exec_setFullWindow, ctrlOpened_eq]
  exact ⟨transmit_sendBytes_going (ws := fullWindowBytes s.cfg) hready, fun _ _ => transmit_sendBytes_failed hready⟩

/-- Settles O33: the bytes are the byte trace of the generic path for each size of a bound, and they are transmitted
whether or not the precondition holds. -/
theorem setWindowSendsItsFrames : Obligations.SetWindowSendsItsFrames := by
  refine ⟨fun _ => rfl, fun s xs ys xe ye bytes hready hbytes => ?_⟩
  obtain rfl : bytes = windowBytes s.cfg xs ys xe ye := by
    rw [hbytes, windowBytes, winColBytes, winRowBytes]
    cases s.cfg.winBoundBytes <;> rfl
  rw [exec_setWindow, ctrlAfterWindow_windowOk]
  exact ⟨transmit_sendBytes_going hready, fun _ _ => transmit_sendBytes_failed hready⟩

end Sys2Proof.Machine
end

section
/-! SUPPORT. The framebuffer family: what each of the seven drawing operations reads and writes (O36 to O42), and
the laws of rule R198 between them (O46 to O49). -/

namespace Sys2Proof.Machine

/-! ### A pixel and its two bytes (rules R61, R63, R190) -/

theorem colorBytes_fst (o : ByteOrder) (c : Color) :
    (colorBytes o c).1 = if o = .little then lo8 c else hi8 c := by
  cases o <;> rfl

theorem colorBytes_snd (o : ByteOrder) (c : Color) :
    (colorBytes o c).2 = if o = .little then hi8 c else lo8 c := by
  cases o <;> rfl

theorem colorOfBytes_eq (o : ByteOrder) (b0 b1 : Byte) :
    colorOfBytes o b0 b1 = if o = .little then b1 ++ b0 else b0 ++ b1 := by
  cases o <;> rfl

theorem State.get_inside {s : State} {x y : Int} (h : inb s.cfg x y = true) :
    s.get x y = some (colorOfBytes s.cfg.fbByteOrder (s.fbByte (off s.cfg x y)) (s.fbByte (off s.cfg x y + 1))) :=
  if_pos h

theorem State.get_outside {s : State} {x y : Int} (h : inb s.cfg x y = false) : s.get x y = none :=
  if_neg (by simp [h])

/-! ### Painting what has the colour already -/

/-- Putting the colour a pixel has changes no byte. -/
theorem State.put_fbByte_of_get {s : State} {p : Int × Int} {c : Color}
    (h : inb s.cfg p.1 p.2 = true → s.get p.1 p.2 = some c) (a : Nat) : (s.put p c).fbByte a = s.fbByte a := by
  rw [State.put_fbByte]
  by_cases hin : inb s.cfg p.1 p.2 = true
  · rw [(State.colorBytes_of_get (h hin)).2]
    split
    · next hsnd => rw [hsnd.2]
    · split
      · next hfst => rw [hfst.2]
      · rfl
  · simp [hin]

/-- Painting pixels that have the colour changes no byte. -/
theorem State.paint_fbByte_of_get {s : State} {ps : List (Int × Int)} {c : Color}
    (h : ∀ p ∈ ps, inb s.cfg p.1 p.2 = true → s.get p.1 p.2 = some c) (a : Nat) :
    (s.paint ps c).fbByte a = s.fbByte a := by
  induction ps generalizing s with
  | nil => rfl
  | cons p ps ih =>
    rw [State.paint_cons, ih fun q hq hin => ?_, State.put_fbByte_of_get (h p List.mem_cons_self)]
    rw [State.put_cfg] at hin
    rw [State.put_get, h q (List.mem_cons_of_mem p hq) hin, ite_self]

/-! ### What the operations do when the bounds policy lets them (rules R191 to R197) -/

/-- The result of `GET_PIXEL` (rule R192). -/
def State.pixelResult (s : State) (x y : Int) : Result := (s.get x y).elim .noPixel .pixel

/-- Every pixel inside that meets `pixels` has the colour, no other byte of the buffer changes, and nothing else does
beyond the flags, the result and the sequencer. -/
abbrev PaintsOnly (s t : State) (c : Color) (pixels : Int → Int → Prop) : Prop :=
  t = { s.finished .ok with fb := t.fb } ∧
    (∀ i j, inb s.cfg i j = true → pixels i j → t.get i j = some c) ∧
    ∀ a, (∀ i j, inb s.cfg i j = true → pixels i j → a ≠ off s.cfg i j ∧ a ≠ off s.cfg i j + 1) →
      t.fbByte a = s.fbByte a

theorem done_paint_paintsOnly {s : State} {ps : List (Int × Int)} {pixels : Int → Int → Prop} (c : Color)
    (h : ∀ i j, inb s.cfg i j = true → ((i, j) ∈ ps ↔ pixels i j)) :
    PaintsOnly s ((s.accept.paint ps c).done .ok) c pixels := by
  refine ⟨State.done_paint_eq s ps c .ok, fun i j hin hp => ?_, fun a ha => ?_⟩
  · rw [State.done_paint_get, if_pos ⟨hin, (h i j hin).mpr hp⟩]
  · exact State.done_paint_fbByte_of_notMem s ps c .ok a fun p hp hin => ha p.1 p.2 hin ((h p.1 p.2 hin).mp hp)

theorem rectInside_of_inBox {c : Config} {x y w h : Int} (hbox : ∀ i j, inBox x y w h i j → inb c i j = true) :
    rectInside c x y w h = true :=
  rectInside_iff.mpr fun i j hi hj => hbox i j ⟨hi, hj⟩

section Meanings

variable {s : State} (hready : Ready s)
include hready

theorem exec_setPixel {x y : Int} {c : Color} (h : s.cfg.oobPolicy = .clip ∨ inb s.cfg x y = true) :
    exec (.setPixel x y c) s = .next ((s.accept.put (x, y) c).done .ok) := by
  rw [exec, execSetPixel, framebufferOp_ready hready h]

theorem exec_getPixel {x y : Int} (h : s.cfg.oobPolicy = .clip ∨ inb s.cfg x y = true) :
    exec (.getPixel x y) s = .next (s.finished (s.pixelResult x y)) := by
  have haccept : s.accept.get x y = s.get x y := rfl
  rw [exec, execGetPixel, framebufferOp_ready hready h, haccept, State.pixelResult]
  cases s.get x y <;> rfl

theorem exec_fill (c : Color) : exec (.fill c) s = .next ((s.accept.fillAll c).done .ok) := by
  rw [exec, execFill, framebufferOp_ready hready (.inr rfl)]

theorem exec_fillRect {x y w h : Int} {c : Color}
    (hbox : s.cfg.oobPolicy = .clip ∨ ∀ i j, inBox x y w h i j → inb s.cfg i j = true) :
    exec (.fillRect x y w h c) s = .next ((s.accept.paint (rectPoints s.cfg x y w h) c).done .ok) := by
  rw [exec, execFillRect, framebufferOp_ready hready (hbox.imp_right rectInside_of_inBox), State.accept_cfg]

theorem exec_rect {x y w h : Int} {c : Color}
    (hbox : s.cfg.oobPolicy = .clip ∨ ∀ i j, inBox x y w h i j → inb s.cfg i j = true) :
    exec (.rect x y w h c) s = .next ((s.accept.paint (outlinePoints s.cfg x y w h) c).done .ok) := by
  rw [exec, execRect, framebufferOp_ready hready (hbox.imp_right rectInside_of_inBox), State.accept_cfg]

theorem exec_drawText {text : List Byte} {x y : Int} {c : Color}
    (h : s.cfg.oobPolicy = .clip ∨ ∀ i j, textPixel s.cfg.font text x y i j → inb s.cfg i j = true) :
    exec (.drawText text x y c) s = .next ((s.accept.paint (textPoints s.cfg.font text x y) c).done .ok) := by
  rw [exec, execDrawText, framebufferOp_ready hready (h.imp_right textInside_iff.mpr), State.accept_cfg]

theorem exec_scaledText_badOperand {text : List Byte} {x y : Int} {scale : Nat} {c : Color}
    (h : inb s.cfg x y = false ∨ scale = 0) :
    exec (.scaledText text x y scale c) s = .next (s.turnedAway 0x03) := by
  have hnone : (if scale = 0 then none else s.get x y) = none := by
    rcases h with hout | hscale
    · rw [State.get_outside hout, ite_self]
    · exact if_pos hscale
  rw [exec, execScaledText, onDriverRequest_ready hready, hnone]
  rfl

theorem exec_scaledText {text : List Byte} {x y : Int} {scale : Nat} {c background : Color}
    (hanchor : s.get x y = some background) (hscale : 1 ≤ scale)
    (h : s.cfg.oobPolicy = .clip ∨ scaledInside s text x y scale c) :
    exec (.scaledText text x y scale c) s =
      .next ((scaledPainted s.accept text x y scale c background).done .ok) := by
  have hsome : (if scale = 0 then none else s.get x y) = some background := by
    rw [if_neg (by omega), hanchor]
  rw [exec, execScaledText, onDriverRequest_ready hready, hsome]
  exact congrArg _ (scaleText_inside (s := s.accept) h)

end Meanings

/-! ### The seven operations -/

/-- Settles O36: a put writes the bytes of rule R63 at the two offsets of its pixel. -/
theorem setPixelWritesTwoBytes : Obligations.SetPixelWritesTwoBytes := by
  refine ⟨fun _ => rfl, fun s x y c hready hpolicy => ?_⟩
  refine ⟨_, exec_setPixel hready hpolicy, State.done_paint_eq s [(x, y)] c .ok, fun a => ?_⟩
  refine (State.put_fbByte s.accept (x, y) c a).trans ?_
  simp only [State.accept_cfg, colorBytes_fst, colorBytes_snd, off]
  by_cases hfst : inb s.cfg x y = true ∧ a = ((y * s.cfg.width + x) * 2).toNat
  · rw [if_neg (by omega), if_pos hfst, if_pos hfst]
  · rw [if_neg hfst, if_neg hfst]
    rfl

/-- Settles O37: the result is what the pixel reads as, its two bytes inside the buffer. -/
theorem getPixelReadsTwoBytes : Obligations.GetPixelReadsTwoBytes := by
  refine ⟨fun _ => rfl, fun s x y hready hpolicy => ?_⟩
  rw [exec_getPixel hready hpolicy, State.pixelResult]
  by_cases hin : inb s.cfg x y = true
  · rw [if_pos (inb_iff.mp hin), State.get_inside hin, colorOfBytes_eq]
    rfl
  · rw [if_neg (hin ∘ inb_iff.mpr), State.get_outside (Bool.not_eq_true _ ▸ hin)]
    rfl

/-- Settles O38: a filled buffer holds the first byte at even and the second at odd addresses. -/
theorem fillWritesEveryPixel : Obligations.FillWritesEveryPixel := by
  refine ⟨fun _ => rfl, fun s c hready => ⟨_, exec_fill hready c, rfl, fun p hp => ?_, fun x y hin => ?_⟩⟩
  · have hlen : s.accept.cfg.fbLen = 2 * (s.cfg.width * s.cfg.height) := by
      rw [State.accept_cfg, Config.fbLen]; omega
    refine ⟨(State.fillAll_fbByte s.accept c (2 * p) (by omega)).trans ?_,
      (State.fillAll_fbByte s.accept c (2 * p + 1) (by omega)).trans ?_⟩
    · rw [if_pos (by omega), colorBytes_fst]; rfl
    · rw [if_neg (by omega), colorBytes_snd]; rfl
  · exact State.fillAll_get s.accept c x y hin

/-- Settles O39: the painted pixels are those of the box inside the buffer. -/
theorem fillRectColoursTheBox : Obligations.FillRectColoursTheBox := by
  refine ⟨fun _ => rfl, fun s x y w h c hready hbox => ⟨_, exec_fillRect hready hbox, ?_⟩⟩
  exact done_paint_paintsOnly c fun i j hin => by rw [mem_rectPoints, and_iff_left hin]

/-- Settles O40: the painted pixels inside the buffer are those of the box on one of its edges. -/
theorem rectColoursTheOutline : Obligations.RectColoursTheOutline := by
  refine ⟨fun _ => rfl, fun s x y w h c hready hbox => ?_⟩
  obtain ⟨heq, hget, hkeep⟩ :=
    done_paint_paintsOnly (s := s) c fun i j hin => mem_outlinePoints (x := x) (y := y) (w := w) (h := h) hin
  exact ⟨_, exec_rect hready hbox, heq, fun i j hin hi he => hget i j hin ⟨hi, he⟩,
    fun a ha => hkeep a fun i j hin hp => ha i j hin hp.1 hp.2⟩

/-- Settles O41: the painted pixels are the set pixels of the text. -/
theorem drawTextColoursTheGlyphs : Obligations.DrawTextColoursTheGlyphs := by
  refine ⟨fun _ => rfl, fun s text x y c hready htext => ⟨_, exec_drawText hready htext, ?_⟩⟩
  exact done_paint_paintsOnly c fun i j _ => mem_textPoints_iff

/-- Settles O42: the text is drawn, erased with the background, and the squares are drawn over it. -/
theorem scaledTextMagnifiesTheRecordedPixels : Obligations.ScaledTextMagnifiesTheRecordedPixels := by
  refine ⟨fun _ => rfl, fun s text x y scale c hready hbad => exec_scaledText_badOperand hready hbad,
    fun s text x y scale c background hready hanchor hscale hpolicy => ?_⟩
  refine ⟨_, exec_scaledText hready hanchor hscale hpolicy, done_scaledPainted_eq s text x y scale c background .ok,
    fun u v => done_scaledPainted_get_block, fun u v => done_scaledPainted_get_text, fun a ha => ?_⟩
  refine scaledPainted_fbByte_of_notMem s.accept text x y scale c background a fun p hp hin => ha p.1 p.2 hin ?_
  exact hp.imp (fun hblock => (mem_blockPoints_iff (s := s.accept).mp hblock).2) mem_textPoints_iff.mp

/-! ### The laws of rule R198 -/

/-- Settles O46: rule R198 (a) from what `put` leaves to be read. -/
theorem pixelSetIsPixelRead : Obligations.PixelSetIsPixelRead := by
  intro s x y c hready hin
  refine ⟨_, _, exec_setPixel hready (.inr hin), exec_getPixel ⟨rfl, rfl⟩ (.inr ?_), ?_, fun i j hne => ?_⟩
  · exact (congrArg (inb · x y) (State.put_cfg s.accept (x, y) c)).trans hin
  · have hget : (s.accept.put (x, y) c).get x y = some c :=
      (State.put_get s.accept (x, y) c x y).trans (if_pos ⟨hin, rfl⟩)
    exact congrArg (Option.elim · Result.noPixel Result.pixel) hget
  · exact (State.put_get s.accept (x, y) c i j).trans (if_neg fun h => hne h.2.symm)

/-- Settles O47: the outline lies in the box, which has the colour once it is filled. -/
theorem rectAfterFillRectChangesNothing : Obligations.RectAfterFillRectChangesNothing := by
  intro s x y w h c hready hclip
  obtain ⟨-, hfill⟩ := fillRectColoursTheBox
  obtain ⟨t, hexec, heq, hget, -⟩ := hfill s x y w h c hready (.inl hclip)
  have hcfg : t.cfg = s.cfg := by rw [heq]; rfl
  have hreadyT : Ready t := by rw [heq]; exact ⟨rfl, rfl⟩
  refine ⟨t, _, hexec, exec_rect hreadyT (.inl (hcfg ▸ hclip)), fun a => ?_⟩
  refine State.paint_fbByte_of_get (s := t.accept) (fun p hp hin => ?_) a
  exact hget p.1 p.2 (hcfg ▸ hin) ((mem_outlinePoints hin).mp hp).1

/-- At scale 1 the square of a recorded pixel is that pixel. -/
theorem inSomeBlock_one {s : State} {text : List Byte} {x y : Int} {c : Color} {u v : Int} :
    inSomeBlock s text x y 1 c u v ↔ recordedPixel s text x y c u v := by
  constructor
  · rintro ⟨i, j, hrecorded, hblock⟩
    obtain ⟨rfl, rfl⟩ : i = u ∧ j = v := by omega
    exact hrecorded
  · intro hrecorded
    exact ⟨u, v, hrecorded, by omega⟩

/-- A set pixel of the text inside the buffer is recorded. -/
theorem recordedPixel_of_textPixel {s : State} {text : List Byte} {x y : Int} {c : Color} {i j : Int}
    (hin : inb s.cfg i j = true) (h : textPixel s.cfg.font text x y i j) : recordedPixel s text x y c i j :=
  ⟨textPixel_inBox h, hin, .inl h⟩

/-- Settles O48: at scale 1 the squares are the recorded pixels, which have the colour after `DRAW_TEXT` too, and no
set pixel of the text is left to the background. -/
theorem scaleOneIsDrawText : Obligations.ScaleOneIsDrawText := by
  intro s text x y c hready hclip hanchor
  refine ⟨_, _, exec_scaledText hready (State.get_inside hanchor) le_rfl (.inl hclip),
    exec_drawText hready (.inl hclip), fun i j => ?_⟩
  by_cases hin : inb s.cfg i j = true
  · rw [State.done_paint_get]
    by_cases hrecorded : recordedPixel s text x y c i j
    · obtain ⟨-, -, hcolour⟩ := id hrecorded
      rw [done_scaledPainted_get_block hin (inSomeBlock_one.mpr hrecorded)]
      split
      · rfl
      · next hnot => exact (hcolour.resolve_left fun htext => hnot ⟨hin, mem_textPoints_iff.mpr htext⟩).symm
    · have htext : ¬ textPixel s.cfg.font text x y i j := hrecorded ∘ recordedPixel_of_textPixel hin
      rw [done_scaledPainted_get_other (hrecorded ∘ inSomeBlock_one.mp) htext,
        if_neg fun h => htext (mem_textPoints_iff.mp h.2)]
  · rw [State.get_outside, State.get_outside] <;> simpa [scaledPainted] using hin

/-- Along one axis, a pixel lies in the `scale` pixels drawn for `i` exactly when its distance from the anchor,
divided by the scale, is the distance of `i`. -/
theorem between_scaledCorner_iff {x i u : Int} {scale : Nat} (hscale : 1 ≤ scale) :
    (scale * i - (scale - 1) * x ≤ u ∧ u < scale * i - (scale - 1) * x + scale) ↔ i = x + (u - x) / scale := by
  have hpos : (0 : Int) < scale := by omega
  have hlo := Int.le_ediv_iff_mul_le (a := i - x) (b := u - x) hpos
  have hhi := Int.ediv_lt_iff_lt_mul (b := i - x + 1) (a := u - x) hpos
  have hcorner : (i - x) * scale = scale * i - (scale - 1) * x - x := by ring
  rw [hcorner] at hlo
  rw [add_mul, one_mul, hcorner] at hhi
  omega

/-- Rounding a distance from the anchor down to the scale leads to a pixel between the anchor and the pixel. -/
theorem anchor_le_magnified {x u : Int} (scale : Nat) (h : x ≤ u) :
    x ≤ x + (u - x) / scale ∧ x + (u - x) / scale ≤ u := by
  have hlo : 0 ≤ (u - x) / scale := Int.ediv_nonneg (by omega) (by omega)
  have hhi : (u - x) / scale ≤ u - x := Int.ediv_le_self _ (by omega)
  omega

/-- Where no pixel of the bounding box has the colour already, the squares cover the pixels right of and below the
anchor that magnify a set pixel of the text. -/
theorem inSomeBlock_iff_magnified {s : State} {text : List Byte} {x y : Int} {scale : Nat} {c : Color} {u v : Int}
    (hanchor : inb s.cfg x y = true) (hscale : 1 ≤ scale) (hin : inb s.cfg u v = true)
    (hfresh : ∀ i j, inBox x y (8 * text.length) 8 i j → s.get i j ≠ some c) :
    inSomeBlock s text x y scale c u v ↔
      x ≤ u ∧ y ≤ v ∧ textPixel s.cfg.font text x y (x + (u - x) / scale) (y + (v - y) / scale) := by
  constructor
  · rintro ⟨i, j, ⟨hbox, -, hset⟩, hu, hv⟩
    obtain rfl := (between_scaledCorner_iff hscale).mp hu
    obtain rfl := (between_scaledCorner_iff hscale).mp hv
    have hpos : (0 : Int) < scale := by omega
    have hx := Int.ediv_nonneg_iff_of_pos (a := u - x) hpos
    have hy := Int.ediv_nonneg_iff_of_pos (a := v - y) hpos
    exact ⟨by omega, by omega, hset.resolve_right (hfresh _ _ hbox)⟩
  · rintro ⟨hx, hy, htext⟩
    have hi := anchor_le_magnified scale hx
    have hj := anchor_le_magnified scale hy
    rw [inb_iff] at hanchor hin
    refine ⟨_, _, recordedPixel_of_textPixel (inb_iff.mpr (by omega)) htext, ?_, ?_⟩
    · exact (between_scaledCorner_iff hscale).mpr rfl
    · exact (between_scaledCorner_iff hscale).mpr rfl

/-- Settles O49: the squares have the colour; a set pixel of the text in none of them has the background, which is
not the colour, since the anchor lies in the bounding box; any other pixel is as before. -/
theorem magnificationIsExact : Obligations.MagnificationIsExact := by
  intro s text x y scale c hready hclip hanchor hscale hfresh
  have hbackground := State.get_inside hanchor
  refine ⟨_, exec_scaledText hready hbackground hscale (.inl hclip), fun u v hin => ?_⟩
  rw [← inSomeBlock_iff_magnified hanchor hscale hin hfresh]
  by_cases hblock : inSomeBlock s text x y scale c u v
  · simp only [done_scaledPainted_get_block hin hblock, hblock, true_or]
  by_cases htext : textPixel s.cfg.font text x y u v
  · have hbox := textPixel_inBox htext
    have hne := hfresh x y (by omega)
    rw [hbackground] at hne
    simp only [done_scaledPainted_get_text hin hblock htext, hne, hblock, hfresh u v hbox, or_self]
  · simp only [done_scaledPainted_get_other hblock htext, hblock, false_or]

end Sys2Proof.Machine
end

section
/-! SUPPORT. The display driver family: what `NEW` (O50), `FLUSH` (O51) and `FILL_SCREEN` (O52) put on the wire and
leave. `FILL_SCREEN` is a flush begun from the filled buffer, one level further down in the sequencer. -/

namespace Sys2Proof.Machine

/-! ### The abort inside a byte trace (rule R214) -/

/-- The abort at byte `n` of a byte trace closes the frame that byte stood in; the levels of the sequencer stay
(rules R35, R214). -/
theorem State.abort_frame (s : State) (ws : List WireByte) (n : Nat) (d : DcClass) (levels : List Nat) (p : Phase) :
    ({ s.drawnBy (n + 1) with
        trace := s.trace ++ framesOf (ws.take n) ++ [.cs .active, .dc d], cs := .driven .active, dc := .driven d,
        ptr := if d = .data then 0 else ptrAfter (ws.take n) 0, seq := levels } : State).abort p =
      { (s.transportFailed p).framesCut ws n d with seq := levels } := by
  rw [State.abort_eq]
  simp only [State.framesCut, cutFrameOf, List.append_assoc]
  rfl

/-! ### New (rules R55, R181) -/

/-- `NEW` whose entry `n` of the INIT table fails. -/
theorem exec_newDriver_failed {s : State} {n : Nat} {w : WireByte} (hbusy : s.busy = false)
    (hw : s.cfg.initTable[n]? = some w) (h : TxFailsAt s n) :
    exec .newDriver s = .next
      { ({ s.transportFailed .failed with
            trace := s.trace ++ resetPulseOf s.cfg, rst := .driven .high } : State).framesCut s.cfg.initTable n w.1 with
        fb := [], fbGen := s.fbGen + 1, seq := [2, n, 2] } := by
  have hbody := newBody_failed (s := s.accept) rfl hw (h.congr rfl rfl)
  rw [exec, execNewDriver, onRequest_free hbusy, hbody]
  exact congrArg _ (State.abort_frame s.accept.poweredUp s.cfg.initTable n w.1 [2, n, 2] .failed)

/-- Settles O50: acceptance asks for no driver; the pulse cannot fail, so the draws are those of the INIT table. -/
theorem newResetsAndInitializes : Obligations.NewResetsAndInitializes :=
  ⟨fun _ => rfl, fun _ hbusy => ⟨exec_newDriver_going hbusy, fun _ _ => exec_newDriver_failed hbusy⟩⟩

/-! ### A flush run to its end (rules R182, R214) -/

theorem conclude_flushBody_going {s : State} {c : Ctrl} {p : Phase} {k : Nat} {ks : List Nat}
    (hseq : s.seq = k :: ks) (h : NoTxFails s (7 + s.cfg.fbLen)) :
    (flushBody s).conclude c p = { (s.finished .ok).drawnBy (7 + s.cfg.fbLen) with
      trace := s.trace ++ framesOf (fullWindowBytes s.cfg) ++ dataFrameOf s.fbBytes, cs := .driven .inactive,
      dc := .driven .data, ptr := s.cfg.fbLen, ctrl := c } := by
  rw [flushBody_going hseq h]
  rfl

theorem conclude_flushBody_failed_window {s : State} {c : Ctrl} {p : Phase} {n : Nat} {w : WireByte}
    (hptr : s.ptr = 0) (hw : (fullWindowBytes s.cfg)[n]? = some w) (h : TxFailsAt s n) :
    (flushBody s).conclude c p =
      { (s.transportFailed p).framesCut (fullWindowBytes s.cfg) n w.1 with seq := 2 :: n :: s.seq } := by
  rw [flushBody_failed_window hw h, hptr]
  exact State.abort_frame s (fullWindowBytes s.cfg) n w.1 (2 :: n :: s.seq) p

theorem conclude_flushBody_failed_stream {s : State} {c : Ctrl} {p : Phase} {k n : Nat} {ks : List Nat}
    (hseq : s.seq = k :: ks) (hn : n < s.cfg.fbLen) (h : TxFailsAt s (7 + n)) :
    (flushBody s).conclude c p = { (s.transportFailed p).drawnBy (7 + n + 1) with
      trace := s.trace ++ framesOf (fullWindowBytes s.cfg) ++ cutDataFrameOf (s.fbBytes.take n),
      dc := .driven .data, ptr := n, seq := 2 :: (k + 1) :: ks } := by
  rw [flushBody_failed_stream hseq hn h, Flow.failed_conclude, State.abort_eq]
  simp only [cutDataFrameOf, List.append_assoc]
  rfl

theorem exec_flush {s : State} (hready : Ready s) :
    exec .flush s = .next ((flushBody s.accept).conclude (ctrlOpened s.ctrl) .idle) := by
  rw [exec, execFlush, transmit_ready hready]

/-- Settles O51: the flush begins at the accepted state, which has the buffer, the lines and the draws as they
were. -/
theorem flushSendsTheFramebuffer : Obligations.FlushSendsTheFramebuffer := by
  refine ⟨fun _ => rfl, fun s bytes hready hbytes => ?_⟩
  obtain rfl : bytes = fullWindowBytes s.cfg := hbytes
  rw [exec_flush hready, ← ctrlOpened_eq]
  refine ⟨fun hsent => ?_, fun n w hw hfails => ?_, fun n hn hfails => ?_⟩
  · rw [conclude_flushBody_going (s := s.accept) rfl (hsent.congr rfl rfl)]
    rfl
  · rw [conclude_flushBody_failed_window (s := s.accept) rfl hw (hfails.congr rfl rfl)]
    rfl
  · rw [conclude_flushBody_failed_stream (s := s.accept) rfl hn (hfails.congr rfl rfl)]
    rfl

/-! ### The bytes of a filled buffer (rules R63, R64, R193) -/

theorem map_range_parity (n : Nat) (b0 b1 : Byte) :
    (List.range (n * 2)).map (fun a => if a % 2 = 0 then b0 else b1) =
      (List.range n).flatMap fun _ => [b0, b1] := by
  induction n with
  | zero => rfl
  | succ n ih =>
    rw [Nat.succ_mul, List.range_succ (n := n), List.range_succ, List.range_succ]
    simp [ih, Nat.add_mod]

theorem State.fillAll_fbBytes (s : State) (c : Color) :
    (s.fillAll c).fbBytes = (List.range (s.cfg.width * s.cfg.height)).flatMap fun _ =>
      if s.cfg.fbByteOrder = .little then [lo8 c, hi8 c] else [hi8 c, lo8 c] := by
  have hread : ∀ a ∈ List.range s.cfg.fbLen, (s.fillAll c).fbByte a =
      if a % 2 = 0 then (colorBytes s.cfg.fbByteOrder c).1 else (colorBytes s.cfg.fbByteOrder c).2 :=
    fun a ha => State.fillAll_fbByte s c a (List.mem_range.mp ha)
  rw [State.fbBytes, State.fillAll_cfg, List.map_congr_left hread, Config.fbLen, map_range_parity]
  cases s.cfg.fbByteOrder <;> rfl

/-! ### Fill, then flush (rule R183) -/

/-- The state in which the flush of `FILL_SCREEN` begins. -/
def State.filling (s : State) (c : Color) : State := { s.accept.fillAll c with seq := [0, 1] }

/-- A called sequence that is the rest of an operation ends as the operation: completion sets the sequencer back, and
a failure leaves the levels as they stand. -/
theorem conclude_call (body : State → Flow) (s : State) (c : Ctrl) (p : Phase) :
    ((call body s).thenDo State.nextStep).conclude c p = (body s.enter).conclude c p := by
  rw [call]
  cases body s.enter <;> rfl

theorem exec_fillScreen {s : State} (c : Color) (hready : Ready s) :
    exec (.fillScreen c) s = .next ((flushBody (s.filling c)).conclude (ctrlOpened s.ctrl) .idle) := by
  rw [exec, execFillScreen, transmit_ready hready, fillScreenBody, conclude_call]
  rfl

/-- Settles O52: the flush begins at the filled buffer, whose bytes are the colour's at every pixel, and no ending of
it writes the buffer. -/
theorem fillScreenFillsAndFlushes : Obligations.FillScreenFillsAndFlushes := by
  refine ⟨fun _ => rfl, fun s c bytes pixels hready hbytes hpixels => ?_⟩
  obtain rfl : bytes = fullWindowBytes s.cfg := hbytes
  have hfilled : (s.filling c).fbBytes = pixels := (State.fillAll_fbBytes s.accept c).trans hpixels.symm
  rw [exec_fillScreen c hready, ← ctrlOpened_eq]
  refine ⟨fun hsent => ?_, fun n w hw hfails => ?_, fun n hn hfails => ?_⟩
  · rw [conclude_flushBody_going (s := s.filling c) rfl (hsent.congr rfl rfl), hfilled]
    exact ⟨_, rfl, hfilled, rfl⟩
  · rw [conclude_flushBody_failed_window (s := s.filling c) rfl hw (hfails.congr rfl rfl)]
    exact ⟨_, rfl, hfilled, rfl⟩
  · rw [conclude_flushBody_failed_stream (s := s.filling c) rfl hn (hfails.congr rfl rfl), hfilled]
    exact ⟨_, rfl, hfilled, rfl⟩

end Sys2Proof.Machine
end

section
/-! SUPPORT. The exceptions family: the requests turned away at acceptance (O11, O12, O43, O54) or stopped by an
operation in progress (O13), the abort at a failed byte (O25), and `OOB_POLICY = reject` (O44, O45). -/

namespace Sys2Proof.Machine

/-! ### Turned away at acceptance (rules R216 to R218, R229) -/

/-- Settles O12: every instruction but `NEW` goes through the acceptance that asks for a driver. -/
theorem unconstructedTurnsAwayAllButNew : Obligations.UnconstructedTurnsAwayAllButNew := by
  intro i s hi hfree hphase
  obtain ⟨run, hexec⟩ := exec_onDriverRequest hi s
  exact hexec.trans (onDriverRequest_notConstructed hfree hphase)

/-- Settles O13: both acceptances, that of `NEW` and that of the others, look at `BUSY` first. -/
theorem busyRequestStops : Obligations.BusyRequestStops := by
  intro i s hbusy
  by_cases hi : i = .newDriver
  · rw [hi, exec, execNewDriver, onRequest_busy hbusy]
  · obtain ⟨run, hexec⟩ := exec_onDriverRequest hi s
    exact hexec.trans (onRequest_busy hbusy)

/-- Settles O43, which is a clause of O42 too. -/
theorem scaledTextBadOperand : Obligations.ScaledTextBadOperand :=
  fun _ _ _ _ _ _ hready hbad => exec_scaledText_badOperand hready hbad

/-- The codes of an encoding space (rules R93, R96). -/
def spaceCodes : Space → List Byte
  | .host => hostCodes
  | .wire => wireCodes

theorem opcode_mem_spaceCodes (i : Instr) : i.opcode ∈ spaceCodes i.space := by
  cases i <;> simp [Instr.opcode, Instr.space, spaceCodes, hostCodes, wireCodes]

/-- What the decoder answers has the request's space and code, so a code outside its space has no answer. -/
theorem decodeRequest_of_notMem {r : Request} (h : r.op ∉ spaceCodes r.space) :
    ∃ e, decodeRequest r = .error e := by
  cases hd : decodeRequest r with
  | error e => exact ⟨e, rfl⟩
  | ok i =>
    obtain ⟨-, hspace, hcode⟩ := decodedIsWellFormed r i hd
    exact absurd (hspace ▸ hcode ▸ opcode_mem_spaceCodes i) h

theorem step_unknownOp {s : State} {r : Request} {rest : List Request} (hhost : s.host = r :: rest)
    (h : r.op ∉ spaceCodes r.space) (hfree : s.busy = false) :
    step s = .next ((s.latch r rest).turnedAway 0x04) := by
  obtain ⟨e, hd⟩ := decodeRequest_of_notMem h
  simp only [step, fetch, hhost, hd]
  exact onRequest_free (s := s.latch r rest) hfree

/-- Settles O11. -/
theorem unknownCodeIsTurnedAway : Obligations.UnknownCodeIsTurnedAway :=
  fun _ _ _ hhost hspace hcode hfree => step_unknownOp hhost (by rw [hspace]; exact hcode) hfree

/-- Settles O54. -/
theorem unknownWireCodeIsTurnedAway : Obligations.UnknownWireCodeIsTurnedAway :=
  fun _ _ _ hhost hspace hcode hfree => step_unknownOp hhost (by rw [hspace]; exact hcode) hfree

/-! ### The abort at a failed byte (rules R181, R183, R214) -/

/-- Only `NEW` and `FILL_SCREEN` write the buffer before they transmit (rules R181, R183). -/
theorem startOf_of_keepsBuffer {i : Instr} (hfill : ∀ c, i ≠ .fillScreen c) (hnew : i ≠ .newDriver) (s : State) :
    startOf i s = s.accept := by
  cases i
  case newDriver => exact absurd rfl hnew
  case fillScreen c => exact absurd rfl (hfill c)
  all_goals rfl

/-- Every ending but the abort has a code other than 1 and appends no failed byte. -/
theorem Ends.aborted_or_noFailure {i : Instr} {s t : State} (he : Ends i s t) :
    (∃ u es, Sent (startOf i s) u es ∧ t = u.abort (if i = .newDriver then .failed else .idle)) ∨
      (t.errCode ≠ 0x01 ∧ ∃ es, t.trace = s.trace ++ es ∧ Event.txFail ∉ es) := by
  obtain ⟨pre, hpre, -, hpreFail⟩ := startOf_trace i s
  cases he with
  | turnedAway e hcode =>
    have hne : excCode e ≠ 0x01 := by rcases hcode with rfl | rfl <;> decide
    exact .inr ⟨hne, [], by simp⟩
  | outside => exact .inr ⟨by simp, [], by simp⟩
  | drew => exact .inr ⟨by simp, [], by simp⟩
  | pulsed =>
    rw [pulseResetBody_eq (s := s.accept) rfl]
    exact .inr ⟨by simp, resetPulseOf s.cfg, rfl, txFail_notMem_resetPulseOf s.cfg⟩
  | sent u es c hs =>
    exact .inr ⟨by simp, pre ++ es, by simp [hs.trace_eq, hpre], by simp [hpreFail, hs.noFailure]⟩
  | failed u es hs => exact .inl ⟨u, es, hs, rfl⟩

/-- Settles O25: of the endings the abort alone has code 1, and what it closes was sent from the state the
instruction starts to transmit in. -/
theorem transportFailureAborts : Obligations.TransportFailureAborts := by
  intro i s t hexec
  rcases (exec_ends hexec).2.aborted_or_noFailure with ⟨u, es, hs, rfl⟩ | ⟨hcode, hkeep⟩
  · obtain ⟨pre, hpre, -, hpreFail⟩ := startOf_trace i s
    have htrace : u.trace = s.trace ++ (pre ++ es) := by rw [hs.trace_eq, hpre, List.append_assoc]
    have hnoFail : Event.txFail ∉ pre ++ es := by simp [hpreFail, hs.noFailure]
    refine ⟨fun _ => ⟨⟨pre ++ es, by simp [htrace], hnoFail⟩, rfl, rfl, rfl, rfl, rfl, rfl, fun hfill hnew => ?_⟩,
      fun hcode => absurd rfl hcode⟩
    have hsent := hs.only
    rw [startOf_of_keepsBuffer hfill hnew] at hsent
    rw [hsent]
    exact ⟨rfl, rfl⟩
  · exact ⟨fun h => absurd h hcode, fun _ => hkeep⟩

/-! ### The policy `reject` (rules R190, R215; log 14) -/

/-- What a drawing operation that the policy ends leaves: no byte written, `SEQ` and `PTR` as acceptance sets them. -/
def State.rejected (s : State) : State := { s.turnedAway 0x02 with seq := [0], ptr := 0 }

theorem State.accept_boundsViolation {s : State} (hready : Ready s) : s.accept.boundsViolation = s.rejected := by
  obtain ⟨hfree, hphase⟩ := hready
  simp [State.boundsViolation, State.accept, State.raise, State.rejected, State.turnedAway, excCode, hfree, hphase]

section Outside

variable {s : State} (hready : Ready s) (hreject : s.cfg.oobPolicy = .reject)
include hready hreject

theorem framebufferOp_rejected {run : State → State} {inside : Bool} (h : inside = false) :
    framebufferOp s inside run = .next s.rejected := by
  rw [framebufferOp_outside hready hreject h, State.accept_boundsViolation hready]

theorem exec_setPixel_rejected {x y : Int} {c : Color} (h : inb s.cfg x y = false) :
    exec (.setPixel x y c) s = .next s.rejected := by
  rw [exec, execSetPixel, framebufferOp_rejected hready hreject h]

theorem exec_getPixel_rejected {x y : Int} (h : inb s.cfg x y = false) :
    exec (.getPixel x y) s = .next s.rejected := by
  rw [exec, execGetPixel, framebufferOp_rejected hready hreject h]

theorem exec_fillRect_rejected {x y w h : Int} {c : Color} (hbox : rectInside s.cfg x y w h = false) :
    exec (.fillRect x y w h c) s = .next s.rejected := by
  rw [exec, execFillRect, framebufferOp_rejected hready hreject hbox]

theorem exec_rect_rejected {x y w h : Int} {c : Color} (hbox : rectInside s.cfg x y w h = false) :
    exec (.rect x y w h c) s = .next s.rejected := by
  rw [exec, execRect, framebufferOp_rejected hready hreject hbox]

theorem exec_drawText_rejected {text : List Byte} {x y : Int} {c : Color}
    (h : ¬ ∀ i j, textPixel s.cfg.font text x y i j → inb s.cfg i j = true) :
    exec (.drawText text x y c) s = .next s.rejected := by
  rw [exec, execDrawText, framebufferOp_rejected hready hreject (Bool.eq_false_iff.mpr (mt textInside_iff.mp h))]

theorem exec_scaledText_rejected {text : List Byte} {x y : Int} {scale : Nat} {c : Color}
    (hanchor : inb s.cfg x y = true) (hscale : 1 ≤ scale) (h : ¬ scaledInside s text x y scale c) :
    exec (.scaledText text x y scale c) s = .next s.rejected := by
  rw [exec, execScaledText, onDriverRequest_ready hready, if_neg (by omega), State.get_inside hanchor,
    ← State.accept_boundsViolation hready]
  exact congrArg _ (scaleText_outside (s := s.accept) hreject h)

end Outside

/-- Settles O45: each clause names a pixel outside that the operation's own test of the bounds covers. -/
theorem rejectPolicyEndsOutsideDrawing : Obligations.RejectPolicyEndsOutsideDrawing := by
  intro s x y w h c text hready hreject
  refine ⟨fun hout => ?_, fun i j hbox hout => ?_, fun i j htext hout => ?_,
    fun scale i j hanchor hscale hout hpixel => ?_⟩
  · exact ⟨exec_setPixel_rejected hready hreject hout, exec_getPixel_rejected hready hreject hout⟩
  · have hrect : rectInside s.cfg x y w h = false :=
      Bool.eq_false_iff.mpr fun hin => by simp [rectInside_iff.mp hin i j hbox.1 hbox.2] at hout
    exact ⟨exec_fillRect_rejected hready hreject hrect, exec_rect_rejected hready hreject hrect⟩
  · exact exec_drawText_rejected hready hreject fun hin => by simp [hin i j htext] at hout
  · refine exec_scaledText_rejected hready hreject hanchor hscale fun ⟨hglyphs, hbox, hblocks⟩ => ?_
    have hin : inb s.cfg i j = true := by
      rcases hpixel with hp | hp | hp
      · exact hglyphs i j hp
      · exact hbox i j hp
      · exact hblocks i j hp
    simp [hin] at hout

/-! ### The same state under `clip` -/

/-- The state with `OOB_POLICY = clip`. -/
def State.clipped (s : State) : State := { s with cfg := { s.cfg with oobPolicy := .clip } }

theorem State.accept_clipped (s : State) : s.clipped.accept = s.accept.clipped := rfl

theorem State.done_clipped (s : State) (r : Result) : s.clipped.done r = (s.done r).clipped := rfl

/-- `put` does not read the policy. -/
theorem State.put_clipped (s : State) (p : Int × Int) (c : Color) : s.clipped.put p c = (s.put p c).clipped := by
  simp only [State.put, apply_ite State.clipped]
  rfl

theorem State.paint_clipped (s : State) (ps : List (Int × Int)) (c : Color) :
    s.clipped.paint ps c = (s.paint ps c).clipped := by
  induction ps generalizing s with
  | nil => rfl
  | cons p ps ih => rw [State.paint_cons, State.paint_cons, State.put_clipped, ih]

theorem scaledPainted_clipped (s : State) (text : List Byte) (x y : Int) (scale : Nat) (c background : Color) :
    scaledPainted s.clipped text x y scale c background = (scaledPainted s text x y scale c background).clipped := by
  have hrecorded : recordedPoints s.clipped text x y c = recordedPoints s text x y c := by
    rw [recordedPoints, State.paint_clipped]
    rfl
  rw [scaledPainted, hrecorded, State.paint_clipped, State.paint_clipped, State.paint_clipped]
  rfl

section RejectAndClip

variable {s t : State} (hready : Ready s) (hreject : s.cfg.oobPolicy = .reject)
include hready hreject

theorem framebufferOp_reject_or_clip {inside inside' : Bool} {run run' : State → State}
    (h : framebufferOp s inside run = .next t) (hrun : run' s.clipped.accept = (run s.accept).clipped) :
    t = s.rejected ∨ framebufferOp s.clipped inside' run' = .next t.clipped := by
  cases inside with
  | false =>
    rw [framebufferOp_rejected hready hreject rfl, Host.Outcome.next.injEq] at h
    exact .inl h.symm
  | true =>
    rw [framebufferOp_ready hready (.inr rfl), Host.Outcome.next.injEq] at h
    rw [framebufferOp_ready (s := s.clipped) hready (.inl rfl), hrun, h]
    exact .inr rfl

theorem exec_scaledText_reject_or_clip {text : List Byte} {x y : Int} {scale : Nat} {c : Color}
    (h : exec (.scaledText text x y scale c) s = .next t) :
    t = s.rejected ∨ exec (.scaledText text x y scale c) s.clipped = .next t.clipped := by
  by_cases hbad : inb s.cfg x y = false ∨ scale = 0
  · rw [exec_scaledText_badOperand hready hbad, Host.Outcome.next.injEq] at h
    rw [exec_scaledText_badOperand (s := s.clipped) hready hbad, ← h]
    exact .inr rfl
  · obtain ⟨hanchor, hscale⟩ : inb s.cfg x y = true ∧ 1 ≤ scale := by
      rw [not_or, Bool.not_eq_false] at hbad
      exact ⟨hbad.1, Nat.one_le_iff_ne_zero.mpr hbad.2⟩
    have hget := State.get_inside hanchor
    by_cases hin : scaledInside s text x y scale c
    · rw [exec_scaledText hready hget hscale (.inr hin), Host.Outcome.next.injEq] at h
      rw [exec_scaledText (s := s.clipped) hready hget hscale (.inl rfl), State.accept_clipped,
        scaledPainted_clipped, State.done_clipped, h]
      exact .inr rfl
    · rw [exec_scaledText_rejected hready hreject hanchor hscale hin, Host.Outcome.next.injEq] at h
      exact .inl h.symm

end RejectAndClip

/-- Settles O44: what an operation does past the bounds test does not read the policy. -/
theorem rejectPolicyIsAllOrNothing : Obligations.RejectPolicyIsAllOrNothing := by
  intro i s t hspace hlo hhi hready hreject hexec
  have hdrawing := (isDrawing_iff i).mpr ⟨hspace, hlo, hhi⟩
  have hpaint (ps : List (Int × Int)) (c : Color) :
      (s.clipped.accept.paint ps c).done .ok = ((s.accept.paint ps c).done .ok).clipped :=
    congrArg (·.done .ok) (State.paint_clipped s.accept ps c)
  cases i
  case setPixel x y c =>
    rw [exec, execSetPixel] at hexec ⊢
    exact framebufferOp_reject_or_clip hready hreject hexec (hpaint [(x, y)] c)
  case getPixel x y =>
    rw [exec, execGetPixel] at hexec ⊢
    refine framebufferOp_reject_or_clip hready hreject hexec ?_
    rw [show s.clipped.accept.get x y = s.accept.get x y from rfl]
    cases s.accept.get x y <;> rfl
  case fill c =>
    rw [exec, execFill] at hexec ⊢
    exact framebufferOp_reject_or_clip hready hreject hexec rfl
  case fillRect x y w h c =>
    rw [exec, execFillRect] at hexec ⊢
    exact framebufferOp_reject_or_clip hready hreject hexec (hpaint (rectPoints s.cfg x y w h) c)
  case rect x y w h c =>
    rw [exec, execRect] at hexec ⊢
    exact framebufferOp_reject_or_clip hready hreject hexec (hpaint (outlinePoints s.cfg x y w h) c)
  case drawText text x y c =>
    rw [exec, execDrawText] at hexec ⊢
    exact framebufferOp_reject_or_clip hready hreject hexec (hpaint (textPoints s.cfg.font text x y) c)
  case scaledText => exact exec_scaledText_reject_or_clip hready hreject hexec
  all_goals exact nomatch hdrawing

end Sys2Proof.Machine
end

section
/-! SUPPORT. The reset and hazards family: with the host's list exhausted nothing happens (O10), every instruction
ends (O15), and the ghost `CTRL` follows the table of rule R250 (O26) and so rule R251 (O27). -/

namespace Sys2Proof.Machine

/-- Settles O10: the step fetches nothing, and the idle step answers the state it was given. -/
theorem exhaustedHostChangesNothing : Obligations.ExhaustedHostChangesNothing := by
  intro s hhost
  simp only [step, fetch, hhost, idleStep]

/-! ### Every instruction ends (rules R37, R267) -/

/-- Both acceptances, that of `NEW` and that of the others, answer a next state when no operation runs. -/
theorem exec_answers {s : State} (hfree : s.busy = false) (i : Instr) : ∃ t, exec i s = .next t := by
  by_cases hi : i = .newDriver
  · rw [hi, exec, execNewDriver, onRequest_free hfree]
    exact ⟨_, rfl⟩
  · obtain ⟨run, hexec⟩ := exec_onDriverRequest hi s
    rw [hexec, onDriverRequest, onRequest_free hfree]
    exact ⟨_, rfl⟩

/-- A request turned away leaves `BUSY` as it was; every other ending clears it. -/
theorem Ends.notBusy {i : Instr} {s t : State} (hfree : s.busy = false) (he : Ends i s t) : t.busy = false := by
  cases he with
  | turnedAway => exact hfree
  | outside | drew | pulsed | sent | failed => rfl

/-- Settles O15: the instruction answers a next state, and each of its endings has `BUSY = 0`. -/
theorem everyOperationEnds : Obligations.EveryOperationEnds := by
  intro i s hfree
  obtain ⟨t, hexec⟩ := exec_answers hfree i
  exact ⟨t, hexec, (exec_ends hexec).2.notBusy hfree⟩

/-! ### The ghost `CTRL` (rule R250) -/

/-- The rows of rule R250: `CTRL` after the instruction has completed, from its value at acceptance. The last row is
that of the wire commands (log 11). -/
def completedCtrl (i : Instr) (cfg : Config) (c : Ctrl) : Ctrl :=
  match i with
  | .newDriver => .configured
  | .pulseReset => .reset
  | .initController => ctrlInitialized c
  | .setFullWindow | .flush | .fillScreen _ => ctrlOpened c
  | .setWindow xs ys xe ye => ctrlAfterWindow (windowOk cfg xs ys xe ye) c
  | .writeCommand b => ctrlAfterCommand b c
  | .writeData _ => ctrlAfterData c
  | .setPixel _ _ _ | .getPixel _ _ | .fill _ | .fillRect _ _ _ _ _ | .rect _ _ _ _ _ | .drawText _ _ _ _
  | .scaledText _ _ _ _ _ => c
  | i => ctrlAfterCommand i.opcode c

theorem completedCtrl_drawing {i : Instr} (hi : isDrawing i = true) (cfg : Config) (c : Ctrl) :
    completedCtrl i cfg c = c := by
  cases i
  case setPixel | getPixel | fill | fillRect | rect | drawText | scaledText => rfl
  all_goals cases hi

/-- The ways an instruction can leave `CTRL`, with the flags that tell them apart. -/
inductive CtrlEnds (i : Instr) (s t : State) : Prop
  /-- completed, with the value of its row -/
  | completed (herr : t.err = false) (hcode : t.errCode = 0) (hctrl : t.ctrl = completedCtrl i s.cfg s.ctrl)
  /-- stopped at a failed byte (rule R214) -/
  | aborted (herr : t.err = true) (hcode : t.errCode = 0x01) (hctrl : t.ctrl = .undefined)
  /-- turned away, or ended by the bounds policy (rules R215, R216, R218) -/
  | kept (herr : t.err = true) (hcode : t.errCode ∈ [0x02, 0x03, 0x05]) (hctrl : t.ctrl = s.ctrl)

theorem conclude_ctrlEnds (i : Instr) (s : State) (f : Flow) (p : Phase) :
    CtrlEnds i s (f.conclude (completedCtrl i s.cfg s.ctrl) p) := by
  rcases f.conclude_flags (completedCtrl i s.cfg s.ctrl) p with ⟨herr, hcode, hctrl⟩ | ⟨herr, hcode, hctrl⟩
  · exact .completed herr hcode hctrl
  · exact .aborted herr hcode hctrl

theorem onDriverRequest_ctrlEnds {i : Instr} {s t : State} {run : State → State} (hrun : CtrlEnds i s (run s))
    (h : onDriverRequest s run = .next t) : CtrlEnds i s t := by
  rcases onDriverRequest_cases s run with ⟨-, e⟩ | ⟨-, -, e⟩ | ⟨-, -, e⟩
  · cases e.symm.trans h
  · cases e.symm.trans h
    exact .kept rfl (by simp [excCode]) rfl
  · cases e.symm.trans h
    exact hrun

/-- A drawing operation neither transmits nor pulses, so no ending of it touches `CTRL`. -/
theorem Ends.ctrlEnds {i : Instr} {s t : State} (hi : isDrawing i = true) (he : Ends i s t) : CtrlEnds i s t := by
  cases he with
  | turnedAway e he => exact .kept rfl (by rcases he with rfl | rfl <;> simp [excCode]) rfl
  | outside => exact .kept rfl (by simp) rfl
  | drew => exact .completed rfl rfl (completedCtrl_drawing hi s.cfg s.ctrl).symm
  | pulsed hp => cases hp; cases hi
  | sent _ _ _ _ _ hw => cases hi.symm.trans hw
  | failed _ _ _ _ _ _ hw => cases hi.symm.trans hw

/-- Every other instruction but `NEW` and `PULSE_RESET` transmits, and is handed the value of its row. -/
theorem exec_transmits {i : Instr} (hdrawing : isDrawing i = false) (hnew : i ≠ .newDriver)
    (hpulse : i ≠ .pulseReset) (s : State) : ∃ body, exec i s = transmit s body (completedCtrl i s.cfg s.ctrl) := by
  cases i
  case newDriver => exact absurd rfl hnew
  case pulseReset => exact absurd rfl hpulse
  case setPixel | getPixel | fill | fillRect | rect | drawText | scaledText => cases hdrawing
  all_goals exact ⟨_, rfl⟩

/-- However an instruction ends, it leaves `CTRL` in one of the ways of rule R250. -/
theorem exec_ctrlEnds {i : Instr} {s t : State} (h : exec i s = .next t) : CtrlEnds i s t := by
  obtain ⟨hfree, hends⟩ := exec_ends h
  cases hdrawing : isDrawing i with
  | true => exact hends.ctrlEnds hdrawing
  | false =>
    by_cases hnew : i = .newDriver
    · subst hnew
      rw [exec, execNewDriver, onRequest_free hfree] at h
      cases h
      exact conclude_ctrlEnds .newDriver s _ _
    by_cases hpulse : i = .pulseReset
    · subst hpulse
      rw [exec, execPulseReset] at h
      exact onDriverRequest_ctrlEnds (.completed rfl rfl rfl) h
    obtain ⟨body, hbody⟩ := exec_transmits hdrawing hnew hpulse s
    exact onDriverRequest_ctrlEnds (conclude_ctrlEnds i s _ _) (hbody.symm.trans h)

/-- Settles O26: the flags tell which of the three ways it was, and on completion the row of rule R250 is the
value computed for the instruction. -/
theorem controllerContextTable : Obligations.ControllerContextTable := by
  intro i s t hexec
  cases exec_ctrlEnds hexec with
  | aborted herr hcode hctrl =>
    exact ⟨fun _ => hctrl, fun h => by simp [hcode] at h, fun h => by simp [herr] at h⟩
  | kept herr hcode hctrl =>
    exact ⟨fun h => by simp [h] at hcode, fun _ => hctrl, fun h => by simp [herr] at h⟩
  | completed herr hcode hctrl =>
    refine ⟨fun h => by simp [hcode] at h, fun h => by simp [hcode] at h, fun _ => ?_⟩
    cases i
    case newDriver | pulseReset => exact hctrl
    case setPixel | getPixel | fill | fillRect | rect | drawText | scaledText => exact hctrl
    case initController => exact hctrl.trans (ctrlInitialized_eq _)
    case setFullWindow | flush | fillScreen => exact hctrl.trans (ctrlOpened_eq _)
    case setWindow => simpa only [completedCtrl, ctrlAfterWindow, windowOk_iff, ctrlOpened_eq] using hctrl
    case writeCommand => simpa only [completedCtrl, ctrlAfterCommand, isTrigger_iff, ctrlOpened_eq] using hctrl
    case writeData => exact hctrl.trans (ctrlAfterData_eq _)
    case wRamwrFull | wRamwrWin => exact hctrl.trans (ctrlOpened_eq _)
    all_goals exact hctrl

/-! ### The ways between the states of `CTRL` (rule R251) -/

/-- What transmitting can do to `CTRL`, `INITIALIZE` and `NEW` apart: it ends undefined, or open where the controller
was initialised before. -/
abbrev UndefinedOrOpened (before after : Ctrl) : Prop :=
  after = .undefined ∨ after = .ramOpen ∧ (before = .configured ∨ before = .ramOpen)

theorem ctrlOpened_undefinedOrOpened (c : Ctrl) : UndefinedOrOpened c (ctrlOpened c) := by
  cases c <;> decide

theorem ctrlAfterData_undefinedOrOpened (c : Ctrl) : UndefinedOrOpened c (ctrlAfterData c) := by
  cases c <;> decide

theorem ctrlAfterCommand_undefinedOrOpened (b : Byte) (c : Ctrl) : UndefinedOrOpened c (ctrlAfterCommand b c) := by
  unfold ctrlAfterCommand
  split
  · exact ctrlOpened_undefinedOrOpened c
  · exact .inl rfl

theorem ctrlAfterWindow_undefinedOrOpened (ok : Bool) (c : Ctrl) : UndefinedOrOpened c (ctrlAfterWindow ok c) := by
  cases ok
  · exact .inl rfl
  · exact ctrlOpened_undefinedOrOpened c

theorem completedCtrl_undefinedOrOpened {i : Instr} (hdrawing : isDrawing i = false) (hnew : i ≠ .newDriver)
    (hpulse : i ≠ .pulseReset) (hinit : i ≠ .initController) (cfg : Config) (c : Ctrl) :
    UndefinedOrOpened c (completedCtrl i cfg c) := by
  cases i
  case newDriver => exact absurd rfl hnew
  case pulseReset => exact absurd rfl hpulse
  case initController => exact absurd rfl hinit
  case setPixel | getPixel | fill | fillRect | rect | drawText | scaledText => cases hdrawing
  case setFullWindow | flush | fillScreen => exact ctrlOpened_undefinedOrOpened c
  case setWindow => exact ctrlAfterWindow_undefinedOrOpened _ c
  case writeData => exact ctrlAfterData_undefinedOrOpened c
  all_goals exact ctrlAfterCommand_undefinedOrOpened _ c

/-- Settles O27: the abort leads into `UNDEFINED` and turning away changes nothing, so a change into another state is
a completion, and what only opens is told apart from `NEW`, `PULSE_RESET` and `INITIALIZE`. -/
theorem onlyWaysBetweenControllerStates : Obligations.OnlyWaysBetweenControllerStates := by
  intro i s t hexec hchange
  cases exec_ctrlEnds hexec with
  | aborted herr hcode hctrl =>
    rw [hctrl] at hchange ⊢
    exact ⟨nofun, nofun, nofun, fun h => absurd h.symm hchange⟩
  | kept herr hcode hctrl => exact absurd hctrl hchange
  | completed herr hcode hctrl =>
    rw [hctrl] at hchange ⊢
    by_cases hnew : i = .newDriver
    · subst hnew
      exact ⟨nofun, fun _ => .inl rfl, nofun, fun _ => .inr rfl⟩
    by_cases hpulse : i = .pulseReset
    · subst hpulse
      exact ⟨fun _ => rfl, nofun, nofun, fun _ => .inl rfl⟩
    by_cases hinit : i = .initController
    · subst hinit
      cases hc : s.ctrl <;> simp [completedCtrl, ctrlInitialized, hc] at hchange ⊢
    cases hdrawing : isDrawing i with
    | true => exact absurd (completedCtrl_drawing hdrawing _ _) hchange
    | false =>
      rcases completedCtrl_undefinedOrOpened hdrawing hnew hpulse hinit s.cfg s.ctrl with hend | ⟨hend, hbefore⟩
      · rw [hend] at hchange ⊢
        exact ⟨nofun, nofun, nofun, fun h => absurd h.symm hchange⟩
      · rw [hend] at hchange ⊢
        have hconfigured : s.ctrl = .configured := hbefore.resolve_right hchange.symm
        exact ⟨nofun, nofun, fun _ => hconfigured, fun h => nomatch hconfigured.symm.trans h⟩

end Sys2Proof.Machine
end
